-- ==== Sys2Proof/Word.lean ====
section
/-! DEFINITION. The two word types of the block: the 64-bit command word (rule R70) and the 8-bit byte that every
pin identifier, character code, glyph pattern and serial frame is made of (rules R15, R50, R82). -/

namespace Sys2Proof

/-- One byte: a pin identifier, a character code, a glyph pattern or the payload of a serial frame (R15, R80, R82). -/
abbrev Byte := BitVec 8

/-- One command word `W` as the command port carries it; bit 0 is the least significant bit (R16, R70). -/
abbrev Word := BitVec 64

end Sys2Proof
end

