-- ==== Sys2Proof/Syntax.lean ====
section
/-! DEFINITION. The commands of the block as syntax: one constructor per row of spec/opcode_table.json. Operands are
already assembled as rule R76 says (`percent` is the sign-extended integer). There are no other names for a command
(R86) and no other forms (R79). -/

namespace Sys2Proof

/-- The polarity mode, a "two-valued enum" (R21, R87). -/
inductive Polarity where
  | commonCathode
  | commonAnode
  deriving DecidableEq, Repr

/-- The five commands (R71). -/
inductive Instr where
  /-- INIT (R100, format I of R72): polarity, digit count, four digit pins, data, clock and latch pin. -/
  | init (pol : Polarity) (n : Nat) (d0 d1 d2 d3 data clk latch : Byte)
  /-- SETBRT (R120, format B of R73): the percent as an integer. -/
  | setbrt (percent : Int)
  /-- RENDER (R150, format T of R74): four character codes and the auxiliary mask. -/
  | render (t0 t1 t2 t3 dpmask : Byte)
  /-- SHOUT (R132, format S of R75). -/
  | shout (byte : Byte)
  /-- SHWR (R133, format S of R75). -/
  | shwr (byte : Byte)
  deriving DecidableEq, Repr

end Sys2Proof
end

