-- ==== Sys2Proof/WellFormed.lean ====
section
/-! DEFINITION. When a command can be written as a command word: each operand fits the field of rules R72 to R75.
This is about the encoding alone. A digit count of 0, 5, 6 or 7 fits its 3-bit field and is a well-formed INIT, which
INIT itself refuses (R105), as is a repeated pin. -/

namespace Sys2Proof

/-- `n` fits the 3-bit field 58:56 of INIT (R72). -/
def fitsCount (n : Nat) : Bool := decide (n < 8)

/-- `p` fits the signed 16-bit field 15:0 of SETBRT (R73, R76). -/
def fitsPercent (p : Int) : Bool := decide (-32768 ≤ p) && decide (p ≤ 32767)

/-- Every operand of the command fits its field. The 8-bit operands fit by their type. -/
def Instr.wf : Instr → Bool
  | .init _ n _ _ _ _ _ _ _ => fitsCount n
  | .setbrt p => fitsPercent p
  | .render _ _ _ _ _ => true
  | .shout _ => true
  | .shwr _ => true

end Sys2Proof
end

