-- ==== Sys2Proof/Decode.lean ====
section
/-! DEFINITION. The decoder of the command word, total and rejecting by name (R70 to R79), the byte order of a host
interface that carries the word in bytes (R55 (c)), and the encoder written from the same format tables. -/

namespace Sys2Proof

/-! ### Polarity and opcode numbers -/

/-- The polarity mode of the one-bit field `pol` and of register POL: 0 is common-cathode, 1 is common-anode (R87). -/
def polarityOfBit (b : Bool) : Polarity := if b then .commonAnode else .commonCathode

/-- The bit that stands for a polarity mode (R87). -/
def bitOfPolarity : Polarity → Bool
  | .commonCathode => false
  | .commonAnode => true

/-- The opcode of a command, bits 63:60 of its word and the value of register OP while it runs (R71). -/
def opcodeOf : Instr → BitVec 4
  | .init _ _ _ _ _ _ _ _ _ => 1#4
  | .setbrt _ => 2#4
  | .render _ _ _ _ _ => 3#4
  | .shout _ => 4#4
  | .shwr _ => 5#4

/-! ### Decoding -/

/-- What a command word decodes to. -/
inductive Decoded where
  /-- a command -/
  | instr (i : Instr)
  /-- bits 63:60 select no command (R77) -/
  | reservedOpcode
  /-- a field that must be 0 is not (R78) -/
  | reservedField
  deriving DecidableEq, Repr

/-- The opcode field `W[63:60]` (R70). -/
def opcodeField (w : Word) : BitVec 4 := w.extractLsb' 60 4

/-- A field in its place: bit 0 of `v` at bit `lo` of the word, every other bit of the word 0. -/
def fieldAt {n : Nat} (lo : Nat) (v : BitVec n) : Word := v.setWidth 64 <<< lo

/-- The byte whose least significant bit is bit `lo` of the word. -/
def byteAt (w : Word) (lo : Nat) : Byte := w.extractLsb' lo 8

/-- Format I (R72): no reserved field; `n` is read unsigned (R76). -/
def decodeInit (w : Word) : Decoded :=
  .instr (.init (polarityOfBit (w.getLsbD 59)) (w.extractLsb' 56 3).toNat
    (byteAt w 48) (byteAt w 40) (byteAt w 32) (byteAt w 24) (byteAt w 16) (byteAt w 8) (byteAt w 0))

/-- Format B (R73): bits 59:16 are reserved; `percent` is sign-extended (R76). -/
def decodeSetbrt (w : Word) : Decoded :=
  if w.extractLsb' 16 44 = 0#44 then .instr (.setbrt (w.extractLsb' 0 16).toInt) else .reservedField

/-- Format T (R74): bits 59:40 are reserved; `dpmask` and the text slots take any value. -/
def decodeRender (w : Word) : Decoded :=
  if w.extractLsb' 40 20 = 0#20 then
    .instr (.render (byteAt w 32) (byteAt w 24) (byteAt w 16) (byteAt w 8) (byteAt w 0))
  else .reservedField

/-- Format S with opcode 4 (R75): bits 59:8 are reserved. -/
def decodeShout (w : Word) : Decoded :=
  if w.extractLsb' 8 52 = 0#52 then .instr (.shout (byteAt w 0)) else .reservedField

/-- Format S with opcode 5 (R75): bits 59:8 are reserved. -/
def decodeShwr (w : Word) : Decoded :=
  if w.extractLsb' 8 52 = 0#52 then .instr (.shwr (byteAt w 0)) else .reservedField

/-- The decoder. `diagOps` is the parameter DIAG_OPS, which makes opcodes 4 and 5 commands (R13, R71). The opcode is
tested before the reserved field (R172). -/
def decode (diagOps : Bool) (w : Word) : Decoded :=
  match (opcodeField w).toNat with
  | 1 => decodeInit w
  | 2 => decodeSetbrt w
  | 3 => decodeRender w
  | 4 => if diagOps then decodeShout w else .reservedOpcode
  | 5 => if diagOps then decodeShwr w else .reservedOpcode
  | _ => .reservedOpcode

/-! ### The word in bytes -/

/-- The eight bytes of a word as a byte-wide host interface carries them: the byte of bits 63:56 first (R55 (c)). -/
def wordBytes (w : Word) : List Byte :=
  [byteAt w 56, byteAt w 48, byteAt w 40, byteAt w 32, byteAt w 24, byteAt w 16, byteAt w 8, byteAt w 0]

/-- The word of eight bytes, the byte of bits 63:56 first (R55 (c)). -/
def wordOfBytes (b7 b6 b5 b4 b3 b2 b1 b0 : Byte) : Word :=
  fieldAt 56 b7 ||| fieldAt 48 b6 ||| fieldAt 40 b5 ||| fieldAt 32 b4 |||
  fieldAt 24 b3 ||| fieldAt 16 b2 ||| fieldAt 8 b1 ||| fieldAt 0 b0

/-- What a stream of bytes begins with. -/
inductive DecodedBytes where
  /-- fewer than eight bytes: the word is not yet whole (R70: there is one length) -/
  | incomplete
  /-- what the first eight bytes decode to, and the bytes after them -/
  | word (d : Decoded) (rest : List Byte)
  deriving DecidableEq, Repr

/-- Decode the first command word of a stream of bytes; total on every list of bytes. -/
def decodeBytes (diagOps : Bool) : List Byte → DecodedBytes
  | b7 :: b6 :: b5 :: b4 :: b3 :: b2 :: b1 :: b0 :: rest =>
    .word (decode diagOps (wordOfBytes b7 b6 b5 b4 b3 b2 b1 b0)) rest
  | _ => .incomplete

/-- The instruction read from an opcode-table row's word: the row's `nbits` bits are `w`, numbered with bit 0 the least
significant, and every bit above is 0. There is one 64-bit length (R70), so the word is the number itself; the bytes of
the word are laid out as R55 (c) says and given to the byte decoder. DIAG_OPS is at its default, true (R13). -/
def decodeTableWord (nbits w : Nat) : Option Instr :=
  match decodeBytes true (wordBytes (BitVec.ofNat 64 (w % 2 ^ nbits))) with
  | .word (.instr i) _ => some i
  | _ => none

/-! ### Encoding -/

/-- The command word of a command, each field at its bits (R72 to R75). It is the word of a well-formed command; an
operand that does not fit its field is cut to it. -/
def encode : Instr → Word
  | .init pol n d0 d1 d2 d3 data clk latch =>
    fieldAt 60 1#4 ||| fieldAt 59 (BitVec.ofBool (bitOfPolarity pol)) ||| fieldAt 56 (BitVec.ofNat 3 n) |||
    fieldAt 48 d0 ||| fieldAt 40 d1 ||| fieldAt 32 d2 ||| fieldAt 24 d3 |||
    fieldAt 16 data ||| fieldAt 8 clk ||| fieldAt 0 latch
  | .setbrt p => fieldAt 60 2#4 ||| fieldAt 0 (BitVec.ofInt 16 p)
  | .render t0 t1 t2 t3 dpmask =>
    fieldAt 60 3#4 ||| fieldAt 32 t0 ||| fieldAt 24 t1 ||| fieldAt 16 t2 ||| fieldAt 8 t3 ||| fieldAt 0 dpmask
  | .shout byte => fieldAt 60 4#4 ||| fieldAt 0 byte
  | .shwr byte => fieldAt 60 5#4 ||| fieldAt 0 byte

end Sys2Proof
end

