-- ==== Sys2Proof/Config.lean ====
section
/-! DEFINITION. The implementation parameters P1 to P14 (00_scope.md R6 to R15) as plain data, their defaults, and the
free values: constants with no body, so that nothing can be proved of what they are.

The OPEN parameters (FRAME_PERIOD, GLYPH with SUPPORTED, VALID_PIN) are fields that a State carries, so a statement about
every state holds for every value of them. The decided ones are carried as well, with the alternatives the spec names. -/

namespace Sys2Proof

/-- P6 ROUND: how the brightness map rounds (R11, R122). -/
inductive Rounding where
  | floor
  | nearest
  deriving DecidableEq, Repr

/-- P7 ON_HOLD_MODE: the form of the minimum on-hold (R11, R125). -/
inductive OnHoldMode where
  | clamp
  | bias
  deriving DecidableEq, Repr

/-- P10 UNSUPPORTED_POLICY: what a code outside SUPPORTED reads as (R14, R51). -/
inductive UnsupportedPolicy where
  | blank
  | draw
  deriving DecidableEq, Repr

/-- P4 LEVELS as the two on levels of each mode. The off levels are their inverses, the one constraint the source puts
on the table (R9, R101), so a table that breaks it cannot be written. -/
structure LevelTable where
  ccDigitOn : Bool
  ccSegOn : Bool
  caDigitOn : Bool
  caSegOn : Bool
  deriving DecidableEq, Repr

/-- The codes of the characters that every table covers: "the ten digits 0 to 9, the six letters A to F, a blank and a
dash" (R53 (a)). Which code stands for which character is open with the table (R8, R52). -/
structure CharCodes where
  digit0 : Byte
  digit1 : Byte
  digit2 : Byte
  digit3 : Byte
  digit4 : Byte
  digit5 : Byte
  digit6 : Byte
  digit7 : Byte
  digit8 : Byte
  digit9 : Byte
  letterA : Byte
  letterB : Byte
  letterC : Byte
  letterD : Byte
  letterE : Byte
  letterF : Byte
  blank : Byte
  dash : Byte
  deriving DecidableEq, Repr

/-- The eighteen codes in the order of R52. -/
def CharCodes.toList (c : CharCodes) : List Byte :=
  [c.digit0, c.digit1, c.digit2, c.digit3, c.digit4, c.digit5, c.digit6, c.digit7, c.digit8, c.digit9] ++
  [c.letterA, c.letterB, c.letterC, c.letterD, c.letterE, c.letterF] ++ [c.blank, c.dash]

/-- The parameters. P1 MAX_DIGITS = 4 is fixed (R6) and stands in the types, P11 to P14 are the widths of the types
(R15), and P3 GLYPH is the contents of the glyph ROM, which State holds as its memory (R50, R54). -/
structure Params where
  /-- P2 FRAME_PERIOD in microseconds (R7); OPEN. -/
  framePeriod : BitVec 16
  /-- P3 SUPPORTED, the codes the character table covers (R8); OPEN, with the constraint of R53 (a). -/
  supported : List Byte
  /-- P3, the codes in SUPPORTED of the characters every table covers (R53 (a)); OPEN. -/
  codes : CharCodes
  /-- P4 LEVELS (R9). -/
  levels : LevelTable
  /-- P5 ALL_OFF_BYTE (R10). -/
  allOff : Byte
  /-- P6 ROUND (R11). -/
  round : Rounding
  /-- P7 ON_HOLD_MODE (R11). -/
  onHoldMode : OnHoldMode
  /-- P8 VALID_PIN as the identifiers for which it is false (R12); OPEN. -/
  invalidPins : List Byte
  /-- P9 DIAG_OPS (R13). -/
  diagOps : Bool
  /-- P10 UNSUPPORTED_POLICY (R14). -/
  unsupported : UnsupportedPolicy
  deriving DecidableEq, Repr

/-- The predicate VALID_PIN (R12). -/
def Params.validPin (p : Params) (pin : Byte) : Bool := !(p.invalidPins.contains pin)

/-- SUPPORTED contains the codes of the ten digits, the six letters, the blank and the dash (R53 (a)). -/
def Params.coversCharacters (p : Params) : Bool := p.codes.toList.all fun c => p.supported.contains c

/-- What the spec asks of the parameters: FRAME_PERIOD is 1 to 65535, the upper end by the width of its type (R7), and
SUPPORTED covers the characters of R53 (a). The constraint on LEVELS is in its type (R9); that on the blank's pattern is
about the table's contents, `Machine.tableWf`. -/
def Params.wf (p : Params) : Bool := decide (1 ≤ p.framePeriod.toNat) && p.coversCharacters

/-- The default table of LEVELS (R101): PRESUMED, the spec marks the values as general knowledge (log entry 5). -/
def LevelTable.default : LevelTable :=
  { ccDigitOn := false, ccSegOn := true, caDigitOn := true, caSegOn := false }

/-- The codes of the default character table (R52): PRESUMED, the spec marks them as general knowledge (log entry 5). -/
def CharCodes.default : CharCodes :=
  { digit0 := 0x30#8
    digit1 := 0x31#8
    digit2 := 0x32#8
    digit3 := 0x33#8
    digit4 := 0x34#8
    digit5 := 0x35#8
    digit6 := 0x36#8
    digit7 := 0x37#8
    digit8 := 0x38#8
    digit9 := 0x39#8
    letterA := 0x41#8
    letterB := 0x42#8
    letterC := 0x43#8
    letterD := 0x44#8
    letterE := 0x45#8
    letterF := 0x46#8
    blank := 0x20#8
    dash := 0x2D#8 }

/-- The default SUPPORTED is exactly those eighteen codes (R52). -/
def defaultSupported : List Byte := CharCodes.default.toList

/-- The defaults of R7 to R14 (log entry 5). FRAME_PERIOD = 2000 is PRESUMED and no statement rests on it. -/
def Params.default : Params :=
  { framePeriod := 2000#16
    supported := defaultSupported
    codes := CharCodes.default
    levels := LevelTable.default
    allOff := 0xFF#8
    round := .floor
    onHoldMode := .clamp
    invalidPins := []
    diagOps := true
    unsupported := .blank }

/-- FREE VALUE: the pattern that the `k`-th drawn read of an unsupported code returns under DRAW, "an arbitrary 8-bit
value chosen anew at each read" (R14, R51; log entry 6). No body: nothing is known of it. -/
opaque Config.drawnGlyph : Nat → Byte

/-- FREE VALUE: the bit the external register samples at the `k`-th clock edge that finds SDATA undriven, "an
unspecified bit" (R179; log entry 7). No body: nothing is known of it. -/
opaque Config.floatingBit : Nat → Bool

/-- FREE VALUE: what a stage of the external register holds when RST ends a refused run. Reset does not touch the register
(R200), and what the undefined behaviour left in it is not stated (R174; log entry 11). No body: nothing is known of it. -/
opaque Config.strayByte : Nat → Byte

end Sys2Proof
end

