-- ==== Sys2Proof/Machine/Rom.lean ====
section
/-! DEFINITION. The glyph ROM, the block's one memory (20_memory.md R50 to R54, R58): 256 locations of one byte, held as
a list of (address, byte) pairs in one canonical form. Every address from 0x00 to 0xFF exists, so no read fails, and no
command writes it; `Memory.write` builds the contents an implementation is made with (parameter P3), it is no operation
of the engine. -/

namespace Sys2Proof.Machine

/-- The glyph ROM as the pairs that differ from the default table. -/
abbrev Memory := List Host.Cell

/-- What an unlisted address reads as: the default character table of R52 (PRESUMED: the spec marks it as general
knowledge, log entry 4). The entry of a code the table does not cover is 0x00; under either policy a read of an
unsupported code does not look at it (R51). -/
def romDefault : Nat → Byte
  | 0x30 => 0x3F#8
  | 0x31 => 0x06#8
  | 0x32 => 0x5B#8
  | 0x33 => 0x4F#8
  | 0x34 => 0x66#8
  | 0x35 => 0x6D#8
  | 0x36 => 0x7D#8
  | 0x37 => 0x07#8
  | 0x38 => 0x7F#8
  | 0x39 => 0x6F#8
  | 0x41 => 0x77#8
  | 0x42 => 0x7C#8
  | 0x43 => 0x39#8
  | 0x44 => 0x5E#8
  | 0x45 => 0x79#8
  | 0x46 => 0x71#8
  | 0x20 => 0x00#8
  | 0x2D => 0x40#8
  | _ => 0x00#8

/-- The byte at an address. -/
def Memory.read : Memory → Nat → Byte
  | [], a => romDefault a
  | (k, v) :: m, a => if a = k then v else Memory.read m a

/-- One pair in front of a list, unless it says what an unlisted address reads as. -/
def Memory.consCell (a : Nat) (v : Byte) (m : Memory) : Memory :=
  if v = romDefault a then m else (a, v) :: m

/-- The contents with one byte changed, in canonical form. -/
def Memory.write : Memory → Nat → Byte → Memory
  | [], a, v => Memory.consCell a v []
  | (k, w) :: m, a, v =>
    if a < k then Memory.consCell a v ((k, w) :: m)
    else if a = k then Memory.consCell a v m
    else (k, w) :: Memory.write m a v

/-- Every listed address is at least `lo`, below 256, strictly rising, and its byte is not the default. -/
def Memory.wfFrom : Nat → Memory → Bool
  | _, [] => true
  | lo, (k, v) :: m => decide (lo ≤ k) && decide (k < 256) && decide (v ≠ romDefault k) && Memory.wfFrom (k + 1) m

/-- The canonical form. -/
def Memory.wf (m : Memory) : Bool := Memory.wfFrom 0 m

/-- What the spec asks of the table's contents beyond its width: the blank's pattern is 0x00 (R53 (c)). -/
def blankIsEmpty (p : Params) (m : Memory) : Bool := decide (m.read p.codes.blank.toNat = 0#8)

/-- What the spec asks of an implementation's parameters and table: FRAME_PERIOD in its range (R7), SUPPORTED covering the
characters (R53 (a)), the blank empty (R53 (c)), and the ROM in canonical form. R53 (b) is the type of a byte, R53 (d) the
read by code. -/
def tableWf (p : Params) (m : Memory) : Bool := p.wf && m.wf && blankIsEmpty p m

end Sys2Proof.Machine
end

