-- ==== Sys2Proof/Machine/State.lean ====
section
/-! DEFINITION. The state of the machine as plain data: every register of 10_state.md R21 to R28, the external shift
register (R31), the glyph ROM (R50), the trace (00_scope.md R19), the parameters it was built with, and the host's
inputs. `State.reset` is the machine right after power-on reset (R33, R200). -/

namespace Sys2Proof.Machine

/-- The seven output lines of the block (R17, R24). DIG0 is the leftmost digit. -/
inductive Role where
  | dig0
  | dig1
  | dig2
  | dig3
  | sdata
  | sclk
  | slatch
  deriving DecidableEq, Repr

/-- The primitive events (R17). -/
inductive Event where
  /-- set-pin-direction: the role becomes an output -/
  | pinDir (r : Role)
  /-- set-pin-level: the role's level register takes the level -/
  | pinLevel (r : Role) (l : Bool)
  /-- busy-wait-microseconds, with the duration requested -/
  | wait (n : Nat)
  /-- read-constant-from-program-memory: `MemRead(code, 1)` and the pattern it returned -/
  | memRead (code pattern : Byte)
  deriving DecidableEq, Repr

/-- One bit for each role: the shape of OE and of LVL (R24). -/
structure RoleBits where
  dig0 : Bool
  dig1 : Bool
  dig2 : Bool
  dig3 : Bool
  sdata : Bool
  sclk : Bool
  slatch : Bool
  deriving DecidableEq, Repr

/-- Four bytes, index 0 the leftmost digit: the shape of DIGPIN and of TEXT (R21, R26). -/
structure FourBytes where
  b0 : Byte
  b1 : Byte
  b2 : Byte
  b3 : Byte
  deriving DecidableEq, Repr

/-- The machine. -/
@[ext]
structure State where
  /-- the implementation's parameters (R6 to R15): not state, no step changes them (R20; log entry 5) -/
  params : Params
  /-- the glyph ROM, parameter P3 GLYPH (R50, R54) -/
  mem : Memory
  /-- POL (R21) -/
  pol : Polarity
  /-- NDIG (R21) -/
  ndig : BitVec 3
  /-- DIGPIN[0..3] (R21) -/
  digpin : FourBytes
  /-- PIN_DATA (R21) -/
  pinData : Byte
  /-- PIN_CLK (R21) -/
  pinClk : Byte
  /-- PIN_LATCH (R21) -/
  pinLatch : Byte
  /-- DIGIT_ON (R22) -/
  digitOn : Bool
  /-- DIGIT_OFF (R22) -/
  digitOff : Bool
  /-- SEG_ON (R22) -/
  segOn : Bool
  /-- SEG_OFF (R22) -/
  segOff : Bool
  /-- BRIGHT (R23) -/
  bright : BitVec 7
  /-- ON_TIME in microseconds (R23) -/
  onTime : BitVec 16
  /-- OE[r] (R24) -/
  oe : RoleBits
  /-- LVL[r] (R24) -/
  lvl : RoleBits
  /-- BUSY (R25, R28) -/
  busy : Bool
  /-- OP (R25) -/
  op : BitVec 4
  /-- UPC (R25) -/
  upc : Nat
  /-- the expansion of the running command, fixed at its acceptance (R25; log entry 2) -/
  expansion : List Event
  /-- TEXT[0..3] (R26) -/
  text : FourBytes
  /-- DPMASK (R26) -/
  dpmask : Byte
  /-- HOLD in microseconds (R27, R178) -/
  hold : BitVec 16
  /-- CONFIGURED (R28) -/
  configured : Bool
  /-- BRT_VALID (R28) -/
  brtValid : Bool
  /-- SR_SHIFT of the external register (R31, R179) -/
  srShift : Byte
  /-- SR_OUT of the external register (R31, R180) -/
  srOut : Byte
  /-- the events emitted so far, oldest first (R19) -/
  trace : List Event
  /-- the model's own: how many free values have been taken (log entries 6, 7 and 11) -/
  draws : Nat
  /-- the model's own: the words the host will offer at the command port, the head being offered now (log entry 8) -/
  offered : List Word
  /-- the model's own: RST is asserted after this many further sequencer ticks, if at all (log entry 9) -/
  rstIn : Option Nat
  deriving DecidableEq, Repr

/-- The hardware raises no exception of any kind and no address is outside its one memory (R170, R58), so no step ends
in a fault: the type has no constructor, and no instruction can raise one. -/
inductive Fault where
  deriving DecidableEq, Repr

/-- Why a command is refused (R171). Each carries the command word, the info R171 records. All are SAFE: the spec calls
the hardware's behaviour undefined there, and the model gives the run no meaning from that command on (R174). -/
inductive Refusal where
  /-- An instruction without a meaning in this model. No arm of `exec` raises it: every command has its meaning. Safe. -/
  | notModelled (mnemonic : String)
  /-- Code 1. Any word whose opcode is reserved, SHOUT and SHWR with DIAG_OPS = false among them (R77, R132). Safe. -/
  | reservedOpcode (word : Word)
  /-- Code 2. A SETBRT, RENDER, SHOUT or SHWR word with a nonzero reserved field (R78). Safe. -/
  | reservedField (word : Word)
  /-- Code 3. INIT with CONFIGURED = 1 (R105). Safe. -/
  | alreadyConfigured (word : Word)
  /-- Code 4. INIT with a digit count outside 1 to 4 (R105). Safe. -/
  | badDigitCount (word : Word)
  /-- Code 5. INIT with a used pin identifier for which VALID_PIN is false (R105). Safe. -/
  | invalidPin (word : Word)
  /-- Code 6. INIT with two equal used pin identifiers (R105). Safe. -/
  | pinsNotDistinct (word : Word)
  /-- Code 7. RENDER, SHOUT or SHWR with CONFIGURED = 0 (R132, R133, R150). Safe. -/
  | notConfigured (word : Word)
  /-- Code 8. RENDER with BRT_VALID = 0 (R150). Safe. -/
  | brightnessUnwritten (word : Word)
  deriving DecidableEq, Repr

/-- Every bit 0: OE and LVL after reset (R33). -/
def RoleBits.zero : RoleBits :=
  { dig0 := false, dig1 := false, dig2 := false, dig3 := false, sdata := false, sclk := false, slatch := false }

/-- Four zero bytes, for registers that are unwritten after reset (log entry 1). -/
def FourBytes.zero : FourBytes := { b0 := 0#8, b1 := 0#8, b2 := 0#8, b3 := 0#8 }

/-- The machine after power-on reset with any parameters, any glyph table and any contents of the external register
(R33, R200). A register the table of R33 leaves unwritten holds 0 (DESIGN CHOICE, log entry 1): no rule reads it before a
command writes it. -/
def State.powerOn (params : Params) (mem : Memory) (srShift srOut : Byte) : State :=
  { params := params
    mem := mem
    pol := .commonCathode
    ndig := 0#3
    digpin := FourBytes.zero
    pinData := 0#8
    pinClk := 0#8
    pinLatch := 0#8
    digitOn := false
    digitOff := false
    segOn := false
    segOff := false
    bright := 0#7
    onTime := 0#16
    oe := RoleBits.zero
    lvl := RoleBits.zero
    busy := false
    op := 0#4
    upc := 0
    expansion := []
    text := FourBytes.zero
    dpmask := 0#8
    hold := 0#16
    configured := false
    brtValid := false
    srShift := srShift
    srOut := srOut
    trace := []
    draws := 0
    offered := []
    rstIn := none }

/-- The machine right after reset with the default parameters and the default glyph table. The external register's
contents are unspecified at power-up (R33); here they are 0 (DESIGN CHOICE, log entry 3). -/
def State.reset : State := State.powerOn Params.default [] 0#8 0#8

end Sys2Proof.Machine
end

