-- ==== Sys2Proof/Machine/Operands.lean ====
section
/-! DEFINITION. The operand forms and the arithmetic of the block: roles and their bits, NOT8 (00_scope.md R16), the
brightness arithmetic (41_brightness.md R121 to R125), the level table (40_configuration.md R101), the pins a digit count
uses (R105), and the read of the glyph ROM (20_memory.md R51). -/

namespace Sys2Proof.Machine

/-! ### Roles, their bits, and the four byte slots -/

/-- The select line of digit `i`, DIGi (R17). -/
def digitRole : Fin 4 → Role
  | 0 => .dig0
  | 1 => .dig1
  | 2 => .dig2
  | 3 => .dig3

/-- The bit of a role, `OE[r]` or `LVL[r]` (R24). -/
def RoleBits.get (b : RoleBits) : Role → Bool
  | .dig0 => b.dig0
  | .dig1 => b.dig1
  | .dig2 => b.dig2
  | .dig3 => b.dig3
  | .sdata => b.sdata
  | .sclk => b.sclk
  | .slatch => b.slatch

/-- The bits with the bit of one role written. -/
def RoleBits.set (b : RoleBits) (r : Role) (v : Bool) : RoleBits :=
  match r with
  | .dig0 => { b with dig0 := v }
  | .dig1 => { b with dig1 := v }
  | .dig2 => { b with dig2 := v }
  | .dig3 => { b with dig3 := v }
  | .sdata => { b with sdata := v }
  | .sclk => { b with sclk := v }
  | .slatch => { b with slatch := v }

/-- Slot `i`: `DIGPIN[i]` or `TEXT[i]` (R21, R26). -/
def FourBytes.get (b : FourBytes) : Fin 4 → Byte
  | 0 => b.b0
  | 1 => b.b1
  | 2 => b.b2
  | 3 => b.b3

/-- The slots below `n` taken from `new`, the others kept: only the indices below NDIG are written (R21, R100). -/
def FourBytes.writeBelow (n : Nat) (new old : FourBytes) : FourBytes :=
  { b0 := if 0 < n then new.b0 else old.b0
    b1 := if 1 < n then new.b1 else old.b1
    b2 := if 2 < n then new.b2 else old.b2
    b3 := if 3 < n then new.b3 else old.b3 }

/-- The digit indices 0 to n-1 in left-to-right order; there are four digits at most (R6, R100, R150). -/
def digitsBelow (n : Nat) : List (Fin 4) := List.take n [0, 1, 2, 3]

/-! ### Bytes -/

/-- NOT8: the 8-bit one's complement (R16). -/
def not8 (v : Byte) : Byte := ~~~v

/-- Bit `k` of a byte, `v[k]` (R16). -/
def bitOf (v : Byte) (k : Nat) : Bool := v.getLsbD k

/-! ### Brightness arithmetic -/

/-- The clamp of the percent to 0 to 100 (R121). -/
def clampPercent (p : Int) : Nat := if p < 0 then 0 else if 100 < p then 100 else p.toNat

/-- The on-time of a clamped percent, computed exactly and narrowed by no wrap (R122, R123). -/
def onTimeOf (round : Rounding) (framePeriod c : Nat) : Nat :=
  match round with
  | .floor => (c * framePeriod) / 100
  | .nearest => (c * framePeriod + 50) / 100

/-- OFF_TIME = FRAME_PERIOD - ON_TIME (R124). -/
def offTime (s : State) : Nat := s.params.framePeriod.toNat - s.onTime.toNat

/-- ON_HOLD, the duration of the on-hold of every digit (R125). -/
def onHold (s : State) : Nat :=
  match s.params.onHoldMode with
  | .clamp => max s.onTime.toNat 1
  | .bias => s.onTime.toNat + 1

/-! ### Polarity levels -/

/-- DIGIT_ON of a mode (R101). -/
def digitOnOf (t : LevelTable) : Polarity → Bool
  | .commonCathode => t.ccDigitOn
  | .commonAnode => t.caDigitOn

/-- SEG_ON of a mode (R101). -/
def segOnOf (t : LevelTable) : Polarity → Bool
  | .commonCathode => t.ccSegOn
  | .commonAnode => t.caSegOn

/-! ### Pins -/

/-- The n + 3 pin identifiers an INIT with digit count `n` uses (R105). -/
def usedPins (n : Nat) (d0 d1 d2 d3 data clk latch : Byte) : List Byte :=
  List.take n [d0, d1, d2, d3] ++ [data, clk, latch]

/-- No identifier occurs twice (R105, test 4). -/
def pinsDistinct : List Byte → Bool
  | [] => true
  | p :: ps => !(ps.contains p) && pinsDistinct ps

/-! ### The glyph ROM read -/

/-- What `MemRead(c, 1)` returns; `k` numbers the free value that a read of an unsupported code takes under DRAW (R51). -/
def glyphPattern (params : Params) (mem : Memory) (k : Nat) (c : Byte) : Byte :=
  if params.supported.contains c then mem.read c.toNat
  else
    match params.unsupported with
    | .blank => 0#8
    | .draw => Config.drawnGlyph k

/-- How many free values a read of code `c` takes: one if the code is unsupported and the policy is DRAW (R51). -/
def drawsOfRead (params : Params) (c : Byte) : Nat :=
  if params.supported.contains c then 0
  else
    match params.unsupported with
    | .blank => 0
    | .draw => 1

end Sys2Proof.Machine
end

