-- ==== Sys2Proof/Machine/Flags.lean ====
section
/-! DEFINITION. The three status flags, the only flags of the block (10_state.md R28): what sets each. There are no
condition codes and no error flag; no command clears CONFIGURED or BRT_VALID. -/

namespace Sys2Proof.Machine

/-- CONFIGURED after the command with opcode `op` completes: INIT sets it, no other command touches it (R28, R100). -/
def configuredAfter (op : BitVec 4) (before : Bool) : Bool := before || decide (op = 1#4)

/-- SETBRT sets BRT_VALID (R28, R120). -/
def setBrtValid (s : State) : State := { s with brtValid := true }

/-- BUSY goes to 1 when a command is accepted (R25). -/
def setBusy (s : State) : State := { s with busy := true }

/-- BUSY goes to 0 and CONFIGURED takes its value when the running command is complete (R25, R28). -/
def completionFlags (s : State) : State :=
  { s with busy := false, configured := configuredAfter s.op s.configured }

/-- CMD_READY, the command port's answer to the host: the inverse of BUSY (92_eei_decisions.md D1; R28). -/
def cmdReady (s : State) : Bool := !s.busy

end Sys2Proof.Machine
end

