-- ==== Sys2Proof/Machine/Ops.lean ====
section
/-! DEFINITION. The named operations over the state: what each primitive event does (00_scope.md R17), the external shift
register's reaction to its clock and latch lines (60_exceptions.md R179, R180), the sequencer (10_state.md R25), the hold
timer (R178), reset (70_reset_and_hazards.md R200, R201), and the refusal of a command (R171, R174).

The hardware takes no exception and returns from none (R170, R175): the place of trap entry is the refusal (R174), which
saves nothing, changes no mode and goes nowhere. `refuse` is that one shared operation. -/

namespace Sys2Proof.Machine

/-! ### Refusal -/

/-- Refuse a command: the outcome is the mark that R174 asks for, and there is no next state. What a run does with the
mark until RST clears it is in Machine/Run.lean (R175). -/
def refuse (r : Refusal) : Host.Outcome State Fault Refusal := .refused r

/-! ### The external shift register -/

/-- `SR_SHIFT[6:0] ++ d`: shift left by one, `d` enters at bit 0 (R179). -/
def shiftIn (sr : Byte) (d : Bool) : Byte := sr.extractLsb' 0 7 ++ BitVec.ofBool d

/-- The bit the register samples: the level of SDATA if it is driven, a free value otherwise (R179). -/
def sampledBit (s : State) : Bool := if s.oe.sdata then s.lvl.sdata else Config.floatingBit s.draws

/-- A rising edge of the clock line (R179). -/
def onClockRise (s : State) : State :=
  { s with
    srShift := shiftIn s.srShift (sampledBit s)
    draws := if s.oe.sdata then s.draws else s.draws + 1 }

/-- A rising edge of the latch line: all eight bits at once (R180). -/
def onLatchRise (s : State) : State := { s with srOut := s.srShift }

/-- `PinLevel(r, l)` is a rising edge of role `r`'s line: the level written is 1, the line is driven and was at 0
(R179, R180). -/
def isRisingEdge (s : State) (r : Role) (l : Bool) : Bool := l && s.oe.get r && !(s.lvl.get r)

/-- What the register does when role `r` is written to level `l`: only rising edges of the clock and of the latch line
matter (R179, R180). -/
def registerReaction (r : Role) (l : Bool) (s : State) : State :=
  match r with
  | .sclk => if isRisingEdge s .sclk l then onClockRise s else s
  | .slatch => if isRisingEdge s .slatch l then onLatchRise s else s
  | .dig0 => s
  | .dig1 => s
  | .dig2 => s
  | .dig3 => s
  | .sdata => s

/-! ### Primitive events -/

/-- `PinLevel(r, l)`: the register reacts to the line and `LVL[r] <- l`, whether or not `OE[r]` is 1 (R17, R24). -/
def pinLevel (r : Role) (l : Bool) (s : State) : State :=
  { registerReaction r l s with lvl := s.lvl.set r l }

/-- `PinDir(r)`: `OE[r] <- 1` (R17, R24). -/
def pinDir (r : Role) (s : State) : State := { s with oe := s.oe.set r true }

/-- The effect of an event as it begins. `Wait(n)` loads HOLD (R27, R178); a ROM read changes nothing (R51). -/
def applyEvent (e : Event) (s : State) : State :=
  match e with
  | .pinDir r => pinDir r s
  | .pinLevel r l => pinLevel r l s
  | .wait n => { s with hold := BitVec.ofNat 16 n }
  | .memRead _ _ => s

/-- `emit e`: append the event to the trace and apply its effect (R17, R19). -/
def emit (e : Event) (s : State) : State := { applyEvent e s with trace := s.trace ++ [e] }

/-- The hold is over: HOLD has reached 0 (R27, R178; log entry 10). -/
def endHold (s : State) : State := { s with hold := 0#16 }

/-- An event from its beginning to its end: as `emit`, and a hold has run out (R178). -/
def perform (e : Event) (s : State) : State := endHold (emit e s)

/-- A list of events, one after another (R60). -/
def performAll (es : List Event) (s : State) : State := es.foldl (fun t e => perform e t) s

/-! ### The sequencer -/

/-- Accept a command: latch its opcode and its expansion, `BUSY <- 1`, `UPC <- 0` (R25). -/
def start (op : BitVec 4) (es : List Event) (s : State) : State :=
  setBusy { s with op := op, upc := 0, expansion := es, hold := 0#16 }

/-- The running command is complete: `BUSY <- 0`, and INIT sets CONFIGURED (R25, R28). OP and UPC are meaningless while
BUSY = 0 (R33); they go back to their reset values with the expansion (DESIGN CHOICE, log entry 2). TEXT and DPMASK, meaningless as well
once a RENDER is complete (R26), keep what they hold (DESIGN CHOICE, log entry 14). -/
def complete (s : State) : State :=
  { completionFlags s with op := 0#4, upc := 0, expansion := [], hold := 0#16 }

/-- `UPC <- UPC + 1`, and the command is complete when UPC equals the length of the expansion (R25). -/
def advance (s : State) : State :=
  if s.expansion.length ≤ s.upc + 1 then complete s else { s with upc := s.upc + 1 }

/-- One step of the sequencer with BUSY = 1 (R25). While HOLD is not 0 the current Wait is still running and the step
ends it (R178; log entry 10); otherwise the step emits event number UPC, which ends at once unless it loaded HOLD. -/
def sequencerStep (s : State) : State :=
  if s.hold = 0#16 then
    match s.expansion[s.upc]? with
    | none => complete s
    | some e => if (emit e s).hold = 0#16 then advance (emit e s) else emit e s
  else advance (endHold s)

/-- The big-step model of R25: a command's whole expansion at once, from its acceptance to its completion. -/
def completeAtOnce (op : BitVec 4) (es : List Event) (s : State) : State :=
  complete (performAll es (start op es s))

/-! ### Reset -/

/-- RST (R200): every engine register goes to its reset value; the parameters and the ROM are as they were, the external
register keeps what it held, and the events already emitted stay in the trace (R201). The assertion is over. -/
def engineReset (s : State) : State :=
  { State.powerOn s.params s.mem s.srShift s.srOut with
    trace := s.trace
    draws := s.draws
    offered := s.offered
    rstIn := none }

/-- RST in a refused run (R175): every engine register goes to its reset value (R200), "after which the engine must be
configured again". The external register keeps what the undefined behaviour left in it, which nothing states: a free value
for each stage. The trace keeps the events emitted before the refused command (log entry 11). -/
def resetAfterRefusal (s : State) : State :=
  { engineReset s with
    srShift := Config.strayByte s.draws
    srOut := Config.strayByte (s.draws + 1)
    draws := s.draws + 2 }

/-- One tick while BUSY = 1: a step of the sequencer, unless the host asserts RST now, which abandons the expansion
(R201). A pending assertion comes one tick nearer (log entry 9). -/
def busyTick (s : State) : State :=
  match s.rstIn with
  | none => sequencerStep s
  | some 0 => engineReset s
  | some (k + 1) => sequencerStep { s with rstIn := some k }

/-- At most `fuel` ticks, stopping when BUSY = 0. -/
def runBusy : Nat → State → State
  | 0, s => s
  | fuel + 1, s => if s.busy then runBusy fuel (busyTick s) else s

/-- Run the command in progress, if any, until BUSY = 0. A tick ends a hold or performs an event, and an event that
starts a hold takes two, so twice the length and one more are enough. -/
def runToIdle (s : State) : State := runBusy (2 * s.expansion.length + 1) s

/-- A command as one operation (R18): it waits until BUSY = 0 (R28, R212), is then accepted or refused, and when accepted
runs until the engine is idle again. `accept` is the command's own acceptance. The whole expansion at once is what R25
calls the big-step model. -/
def runCommand (accept : State → Host.Outcome State Fault Refusal) (s : State) : Host.Outcome State Fault Refusal :=
  match accept (runToIdle s) with
  | .next t => .next (runToIdle t)
  | .fault f => .fault f
  | .refused r => .refused r

end Sys2Proof.Machine
end

