-- ==== Sys2Proof/Machine/Brightness.lean ====
section
/-! DEFINITION. The brightness family (41_brightness.md): SETBRT. -/

namespace Sys2Proof.Machine

/-- The acceptance of SETBRT, which is the whole command: it has no precondition on the state, emits no event and
completes at acceptance (R120 to R122). The quotient is at most FRAME_PERIOD and fits the 16 bits of ON_TIME (R123). -/
def acceptSetbrt (percent : Int) (s : State) : Host.Outcome State Fault Refusal :=
  .next (setBrtValid
    { s with
      bright := BitVec.ofNat 7 (clampPercent percent)
      onTime := BitVec.ofNat 16 (onTimeOf s.params.round s.params.framePeriod.toNat (clampPercent percent)) })

/-- SETBRT (R120). -/
def execSetbrt (percent : Int) (s : State) : Host.Outcome State Fault Refusal :=
  runCommand (acceptSetbrt percent) s

end Sys2Proof.Machine
end

