-- ==== Sys2Proof/Machine/Shift.lean ====
section
/-! DEFINITION. The shift family (42_shift.md): the micro-operations SHIFTOUT and SHIFTWRITE as lists of events, and the
diagnostic commands SHOUT and SHWR. -/

namespace Sys2Proof.Machine

/-- One bit cell: clock low, data to the bit, clock high, data low (R81). -/
def bitCell (b : Bool) : List Event :=
  [.pinLevel .sclk false, .pinLevel .sdata b, .pinLevel .sclk true, .pinLevel .sdata false]

/-- SHIFTOUT(v): the bit cells of bits 7 down to 0, then the clock is left low (R82, R130). -/
def shiftOut (v : Byte) : List Event :=
  bitCell (bitOf v 7) ++ bitCell (bitOf v 6) ++ bitCell (bitOf v 5) ++ bitCell (bitOf v 4) ++
  bitCell (bitOf v 3) ++ bitCell (bitOf v 2) ++ bitCell (bitOf v 1) ++ bitCell (bitOf v 0) ++
  [.pinLevel .sclk false]

/-- SHIFTWRITE(v): latch low, SHIFTOUT(v), latch high (R83, R131). -/
def shiftWrite (v : Byte) : List Event :=
  [.pinLevel .slatch false] ++ shiftOut v ++ [.pinLevel .slatch true]

/-- The preconditions of SHOUT and SHWR that hold of the state, in order (R132, R133, R172): DIAG_OPS, then CONFIGURED.
The reserved field is tested by the decoder between the two (R78). -/
def diagRefusal (w : Word) (s : State) : Option Refusal :=
  if s.params.diagOps = false then some (.reservedOpcode w)
  else if s.configured = false then some (.notConfigured w)
  else none

/-- The acceptance of SHOUT (R132). -/
def acceptShout (byte : Byte) (s : State) : Host.Outcome State Fault Refusal :=
  match diagRefusal (encode (.shout byte)) s with
  | some r => refuse r
  | none => .next (start 4#4 (shiftOut byte) s)

/-- SHOUT: SHIFTOUT as a command (R132). -/
def execShout (byte : Byte) (s : State) : Host.Outcome State Fault Refusal :=
  runCommand (acceptShout byte) s

/-- The acceptance of SHWR (R133). -/
def acceptShwr (byte : Byte) (s : State) : Host.Outcome State Fault Refusal :=
  match diagRefusal (encode (.shwr byte)) s with
  | some r => refuse r
  | none => .next (start 5#4 (shiftWrite byte) s)

/-- SHWR: SHIFTWRITE as a command (R133). -/
def execShwr (byte : Byte) (s : State) : Host.Outcome State Fault Refusal :=
  runCommand (acceptShwr byte) s

end Sys2Proof.Machine
end

