-- ==== Sys2Proof/Machine/Configuration.lean ====
section
/-! DEFINITION. The configuration family (40_configuration.md): INIT. -/

namespace Sys2Proof.Machine

/-- The preconditions of INIT, tested in the order of R105; the first that fails names the refusal. -/
def initRefusal (n : Nat) (pins : List Byte) (w : Word) (s : State) : Option Refusal :=
  if s.configured then some (.alreadyConfigured w)
  else if ¬ (1 ≤ n ∧ n ≤ 4) then some (.badDigitCount w)
  else if ¬ pins.all s.params.validPin then some (.invalidPin w)
  else if ¬ pinsDistinct pins then some (.pinsNotDistinct w)
  else none

/-- The configuration and level registers as INIT writes them at acceptance (R100, R101). -/
def configure (pol : Polarity) (n : Nat) (d : FourBytes) (data clk latch : Byte) (s : State) : State :=
  { s with
    pol := pol
    ndig := BitVec.ofNat 3 n
    digpin := FourBytes.writeBelow n d s.digpin
    pinData := data
    pinClk := clk
    pinLatch := latch
    digitOn := digitOnOf s.params.levels pol
    digitOff := !(digitOnOf s.params.levels pol)
    segOn := segOnOf s.params.levels pol
    segOff := !(segOnOf s.params.levels pol) }

/-- The set-up of one digit pin: the off level first, the direction second (R102, R207). -/
def digitSetup (off : Bool) (i : Fin 4) : List Event :=
  [.pinLevel (digitRole i) off, .pinDir (digitRole i)]

/-- The set-up of the serial pins (R103). -/
def serialSetup : List Event :=
  [.pinDir .sdata, .pinDir .sclk, .pinDir .slatch, .pinLevel .sdata false, .pinLevel .sclk false]

/-- The expansion of INIT: 2n + 5 + 35 events (R100, R102 to R104). -/
def initExpansion (n : Nat) (off : Bool) (allOff : Byte) : List Event :=
  (digitsBelow n).flatMap (digitSetup off) ++ serialSetup ++ shiftWrite allOff

/-- The acceptance of INIT: the registers are written and the expansion is fixed from them (R100). -/
def acceptInit (pol : Polarity) (n : Nat) (d0 d1 d2 d3 data clk latch : Byte) (s : State) :
    Host.Outcome State Fault Refusal :=
  match initRefusal n (usedPins n d0 d1 d2 d3 data clk latch)
      (encode (.init pol n d0 d1 d2 d3 data clk latch)) s with
  | some r => refuse r
  | none =>
    .next (start 1#4 (initExpansion n (!(digitOnOf s.params.levels pol)) s.params.allOff)
      (configure pol n { b0 := d0, b1 := d1, b2 := d2, b3 := d3 } data clk latch s))

/-- INIT (R100). -/
def execInit (pol : Polarity) (n : Nat) (d0 d1 d2 d3 data clk latch : Byte) (s : State) :
    Host.Outcome State Fault Refusal :=
  runCommand (acceptInit pol n d0 d1 d2 d3 data clk latch) s

end Sys2Proof.Machine
end

