-- ==== Sys2Proof/Machine/Render.lean ====
section
/-! DEFINITION. The refresh family (43_render.md): RENDER and the cycle of one digit. -/

namespace Sys2Proof.Machine

/-- The preconditions of RENDER that hold of the state, in order (R150, R172). -/
def renderRefusal (w : Word) (s : State) : Option Refusal :=
  if s.configured = false then some (.notConfigured w)
  else if s.brtValid = false then some (.brightnessUnwritten w)
  else none

/-- DIGIT(i) for the code `c` that reads as pattern `p`: 75 events in the order of R151. The blanking write comes before
the digit goes off (R154). -/
def digitCycle (s : State) (i : Fin 4) (c p : Byte) : List Event :=
  [.pinLevel (digitRole i) s.digitOn, .memRead c p] ++
  shiftWrite (not8 p) ++
  [.wait (onHold s)] ++
  shiftWrite s.params.allOff ++
  [.pinLevel (digitRole i) s.digitOff, .wait (offTime s)]

/-- The cycles of the digits of a list, in order; `k` numbers the free value the next drawn read takes (R150, R151). -/
def digitCycles (s : State) (text : FourBytes) : Nat → List (Fin 4) → List Event
  | _, [] => []
  | k, i :: is =>
    digitCycle s i (text.get i) (glyphPattern s.params s.mem k (text.get i)) ++
    digitCycles s text (k + drawsOfRead s.params (text.get i)) is

/-- The expansion of RENDER: 75 events for each of the NDIG digits (R150). -/
def renderExpansion (s : State) (text : FourBytes) : List Event :=
  digitCycles s text s.draws (digitsBelow s.ndig.toNat)

/-- How many free values the pass takes (R51; log entry 6). -/
def renderDraws (s : State) (text : FourBytes) : Nat :=
  ((digitsBelow s.ndig.toNat).map fun i => drawsOfRead s.params (text.get i)).sum

/-- The text latches as RENDER writes them at acceptance (R26, R150); the mask is latched and read by nothing (R157). They
keep these values after the RENDER completes (DESIGN CHOICE, log entry 14): the spec gives their contents no meaning then
(R26). -/
def latchText (text : FourBytes) (dpmask : Byte) (s : State) : State :=
  { s with text := text, dpmask := dpmask, draws := s.draws + renderDraws s text }

/-- The acceptance of RENDER (R150). -/
def acceptRender (t0 t1 t2 t3 dpmask : Byte) (s : State) : Host.Outcome State Fault Refusal :=
  match renderRefusal (encode (.render t0 t1 t2 t3 dpmask)) s with
  | some r => refuse r
  | none =>
    .next (start 3#4 (renderExpansion s { b0 := t0, b1 := t1, b2 := t2, b3 := t3 })
      (latchText { b0 := t0, b1 := t1, b2 := t2, b3 := t3 } dpmask s))

/-- RENDER: one refresh pass (R150). -/
def execRender (t0 t1 t2 t3 dpmask : Byte) (s : State) : Host.Outcome State Fault Refusal :=
  runCommand (acceptRender t0 t1 t2 t3 dpmask) s

end Sys2Proof.Machine
end

