-- ==== Sys2Proof/Machine/Dispatch.lean ====
section
/-! DEFINITION. The meaning of every command: one arm per constructor, each a direct call of its meaning. -/

namespace Sys2Proof.Machine

def exec (i : Instr) (s : State) : Host.Outcome State Fault Refusal :=
  match i with
  | .init pol n d0 d1 d2 d3 data clk latch => Sys2Proof.Machine.execInit pol n d0 d1 d2 d3 data clk latch s
  | .setbrt percent => Sys2Proof.Machine.execSetbrt percent s
  | .render t0 t1 t2 t3 dpmask => Sys2Proof.Machine.execRender t0 t1 t2 t3 dpmask s
  | .shout byte => Sys2Proof.Machine.execShout byte s
  | .shwr byte => Sys2Proof.Machine.execShwr byte s

end Sys2Proof.Machine
end

