-- ==== Sys2Proof/Machine/Fetch.lean ====
section
/-! DEFINITION. The command port and the event-level machine: what a word offered at the port does (30_encoding.md R70,
R77, R78), the acceptance of a decoded command, and `tick`, one event, one end of a hold, one acceptance or one idle
moment (10_state.md R25, R28). `step` (Machine/Step.lean) is the command-level machine over the same operations. -/

namespace Sys2Proof.Machine

/-- The word the host offers now, `CMD_WORD` while `CMD_VALID` is 1 (92_eei_decisions.md D1), if any. -/
def offeredWord (s : State) : Option Word := s.offered.head?

/-- The word has been accepted: the host goes on to its next one (R212). -/
def consumeWord (s : State) : State := { s with offered := s.offered.tail }

/-- Decode a word with the machine's DIAG_OPS and hand the command to `run`; a word that is no command is refused by the
name of R77 or R78. -/
def runWord (run : Instr → State → Host.Outcome State Fault Refusal) (w : Word) (s : State) :
    Host.Outcome State Fault Refusal :=
  match decode s.params.diagOps w with
  | .instr i => run i s
  | .reservedOpcode => refuse (.reservedOpcode w)
  | .reservedField => refuse (.reservedField w)

/-- Idle with nothing offered: the engine waits (R200), and a pending RST comes one tick nearer (log entry 9). -/
def idleTick (s : State) : State :=
  match s.rstIn with
  | none => s
  | some 0 => s
  | some (k + 1) => { s with rstIn := some k }

/-- RST is asserted now. -/
def resetNow (s : State) : Bool := decide (s.rstIn = some 0)

/-- The acceptance of a command (R25), each by its own rule. -/
def accept (i : Instr) (s : State) : Host.Outcome State Fault Refusal :=
  match i with
  | .init pol n d0 d1 d2 d3 data clk latch => acceptInit pol n d0 d1 d2 d3 data clk latch s
  | .setbrt percent => acceptSetbrt percent s
  | .render t0 t1 t2 t3 dpmask => acceptRender t0 t1 t2 t3 dpmask s
  | .shout byte => acceptShout byte s
  | .shwr byte => acceptShwr byte s

/-- One tick of the event-level machine: RST if it is asserted (R200, R201); with BUSY = 1 a step of the sequencer; with
BUSY = 0 the acceptance of the offered word, or waiting for one (R25, R28). -/
def tick (s : State) : Host.Outcome State Fault Refusal :=
  if resetNow s then .next (engineReset s)
  else if s.busy then .next (busyTick s)
  else
    match offeredWord s with
    | none => .next (idleTick s)
    | some w => runWord accept w (consumeWord s)

/-- `k` ticks, stopping at a refusal. -/
def ticks : Nat → State → Host.Outcome State Fault Refusal
  | 0, s => .next s
  | k + 1, s =>
    match tick s with
    | .next t => ticks k t
    | .fault f => .fault f
    | .refused r => .refused r

end Sys2Proof.Machine
end

