-- ==== Sys2Proof/Machine/Step.lean ====
section
/-! DEFINITION. One step of the machine at the level of commands: RST, the rest of a command in progress, or one whole
command (00_scope.md R18; 10_state.md R25: "a big-step model ... is equivalent"). -/

namespace Sys2Proof.Machine

/-- One step. RST, when asserted now, comes first (R200). With BUSY = 1 the command in progress runs to its end, and the
offered word waits (R212). With BUSY = 0 the offered word is decoded and run as a whole, or refused by name; with none
offered the engine waits (R200). -/
def step (s : State) : Host.Outcome State Fault Refusal :=
  if resetNow s then .next (engineReset s)
  else if s.busy then .next (runToIdle s)
  else
    match offeredWord s with
    | none => .next (idleTick s)
    | some w => runWord exec w (consumeWord s)

/-- The state with the instruction whose table word is `w` offered at the command port in place of the word offered now,
and with what the fetch needs: BUSY = 0, since a word is accepted only then (R28), and RST not asserted now. -/
def State.withFetchWord (s : State) (nbits w : Nat) : State :=
  { s with
    offered := BitVec.ofNat 64 (w % 2 ^ nbits) :: s.offered.tail
    busy := false
    rstIn := if s.rstIn = some 0 then none else s.rstIn }

end Sys2Proof.Machine
end

