-- ==== Sys2Proof/Machine/Assembler.lean ====
section
/-! DEFINITION. The textual form of a command (30_encoding.md R85): one line of text, as a list of characters, to a
command and its word. Total: a line that has no such form gives none. -/

namespace Sys2Proof.Machine

/-- The value of a hexadecimal digit, upper or lower case. -/
def hexDigit (c : Char) : Option Nat :=
  if 48 ≤ c.toNat ∧ c.toNat ≤ 57 then some (c.toNat - 48)
  else if 65 ≤ c.toNat ∧ c.toNat ≤ 70 then some (c.toNat - 55)
  else if 97 ≤ c.toNat ∧ c.toNat ≤ 102 then some (c.toNat - 87)
  else none

/-- The digits of a number in a base, most significant first, after the value `acc`. -/
def digitsValue (base : Nat) : Nat → List Char → Option Nat
  | acc, [] => some acc
  | acc, c :: cs =>
    match hexDigit c with
    | some d => if d < base then digitsValue base (base * acc + d) cs else none
    | none => none

/-- A decimal number of at least one digit. -/
def decimalValue : List Char → Option Nat
  | [] => none
  | c :: cs => digitsValue 10 0 (c :: cs)

/-- "numbers are decimal, or hexadecimal with 0x" (R85). -/
def numberValue : List Char → Option Nat
  | '0' :: 'x' :: c :: cs => digitsValue 16 0 (c :: cs)
  | cs => decimalValue cs

/-- A number that fits in eight bits. -/
def byteValue (cs : List Char) : Option Byte :=
  match numberValue cs with
  | some v => if v < 256 then some (BitVec.ofNat 8 v) else none
  | none => none

/-- A decimal integer with an optional minus sign. -/
def integerValue : List Char → Option Int
  | '-' :: cs => (decimalValue cs).map fun v => -(v : Int)
  | cs => (decimalValue cs).map fun v => (v : Int)

/-- The parts of a line between separators. -/
def splitAtChar (sep : Char) : List Char → List (List Char)
  | [] => [[]]
  | c :: cs =>
    if c = sep then [] :: splitAtChar sep cs
    else
      match splitAtChar sep cs with
      | [] => [[c]]
      | part :: parts => (c :: part) :: parts

/-- The characters up to a closing quote, and what follows it. -/
def untilQuote : List Char → Option (List Char × List Char)
  | [] => none
  | c :: cs =>
    if c = Char.ofNat 34 then some ([], cs)
    else (untilQuote cs).map fun r => (c :: r.1, r.2)

/-- The 8-bit code of a character. -/
def charCode (c : Char) : Option Byte := if c.toNat < 256 then some (BitVec.ofNat 8 c.toNat) else none

/-- The mode of an INIT line: CC or CA (R85). -/
def modeValue : List Char → Option Polarity
  | ['C', 'C'] => some .commonCathode
  | ['C', 'A'] => some .commonAnode
  | _ => none

/-- The operands of an INIT line. All four digit pins are written, unused ones as 0 (R85); that a line with another byte
for an unused pin is taken too, and that byte put into its field, is the model's (DESIGN CHOICE, log entry 13). -/
def parseInit (mode n pins data clk latch : List Char) : Option Instr :=
  match splitAtChar ',' pins with
  | [p0, p1, p2, p3] => do
    let pol ← modeValue mode
    let count ← numberValue n
    let d0 ← byteValue p0
    let d1 ← byteValue p1
    let d2 ← byteValue p2
    let d3 ← byteValue p3
    let da ← byteValue data
    let ck ← byteValue clk
    let la ← byteValue latch
    return .init pol count d0 d1 d2 d3 da ck la
  | _ => none

/-- A text of at most four characters: they fill the slots from the left, missing slots are 0x00 (R85). -/
def textSlots (cs : List Char) : Option (List Byte) :=
  if cs.length ≤ 4 then do
    let codes ← cs.mapM charCode
    return List.take 4 (codes ++ [0#8, 0#8, 0#8, 0#8])
  else none

/-- The operands of a RENDER line, after its opening quote. -/
def parseRender (cs : List Char) : Option Instr :=
  match untilQuote cs with
  | some (chars, ' ' :: mask) =>
    match textSlots chars, byteValue mask with
    | some [t0, t1, t2, t3], some m => some (.render t0 t1 t2 t3 m)
    | _, _ => none
  | _ => none

/-- The four line forms without a quoted text. -/
def parseWords : List (List Char) → Option Instr
  | [['I', 'N', 'I', 'T'], mode, n, pins, data, clk, latch] => parseInit mode n pins data clk latch
  | [['S', 'E', 'T', 'B', 'R', 'T'], p] => (integerValue p).map fun v => .setbrt v
  | [['S', 'H', 'O', 'U', 'T'], b] => (byteValue b).map fun v => .shout v
  | [['S', 'H', 'W', 'R'], b] => (byteValue b).map fun v => .shwr v
  | _ => none

/-- The command of a line (R85). -/
def parseLine : List Char → Option Instr
  | 'R' :: 'E' :: 'N' :: 'D' :: 'E' :: 'R' :: ' ' :: q :: cs =>
    if q = Char.ofNat 34 then parseRender cs else none
  | cs => parseWords (splitAtChar ' ' cs)

/-- The command word of a line: the command must fit its word (R72 to R75). -/
def assemble (cs : List Char) : Option Word :=
  match parseLine cs with
  | some i => if i.wf then some (encode i) else none
  | none => none

end Sys2Proof.Machine
end

