-- ==== Sys2Proof/Machine/Display.lean ====
section
/-! DEFINITION. What the outside sees: the output lines and the pins they are wired to (10_state.md R24), the status
outputs (92_eei_decisions.md D1), and what the display shows (R32; 60_exceptions.md R181). None of it is state. -/

namespace Sys2Proof.Machine

/-- The level on the line of a role; none when the engine does not drive it (R24). What an undriven line does on the
board is not specified (R200). -/
def line (s : State) (r : Role) : Option Bool := if s.oe.get r then some (s.lvl.get r) else none

/-- The pin identifier of a role: DIGi to DIGPIN[i], SDATA to PIN_DATA, SCLK to PIN_CLK, SLATCH to PIN_LATCH (R24). -/
def pinOf (s : State) : Role → Byte
  | .dig0 => s.digpin.b0
  | .dig1 => s.digpin.b1
  | .dig2 => s.digpin.b2
  | .dig3 => s.digpin.b3
  | .sdata => s.pinData
  | .sclk => s.pinClk
  | .slatch => s.pinLatch

/-- The roles that are wired: the digits below NDIG and the three serial lines (R21, R102). -/
def usedRoles (s : State) : List Role :=
  (digitsBelow s.ndig.toNat).map digitRole ++ [.sdata, .sclk, .slatch]

/-- The level on a platform pin: that of the used role mapped to it, if the engine drives it (R24). -/
def pinLine (s : State) (pin : Byte) : Option Bool :=
  match (usedRoles s).find? fun r => decide (pinOf s r = pin) with
  | some r => line s r
  | none => none

/-- Digit `i` conducts: its select line is driven at DIGIT_ON (R32). -/
def conducts (s : State) (i : Fin 4) : Bool :=
  s.oe.get (digitRole i) && decide (s.lvl.get (digitRole i) = s.digitOn)

/-- Segment `seg` of digit `i` is lit: the digit conducts and the register's output `seg` is 0 (R32). -/
def lit (s : State) (i : Fin 4) (seg : Fin 8) : Bool := conducts s i && !(bitOf s.srOut seg.val)

/-- The digits that conduct (R37). -/
def conducting (s : State) : List (Fin 4) := List.filter (conducts s) [0, 1, 2, 3]

/-- The outputs of the block (92_eei_decisions.md D1): the port's answer, the status flags and the seven lines. -/
structure Outputs where
  cmdReady : Bool
  busy : Bool
  configured : Bool
  brtValid : Bool
  dig0 : Option Bool
  dig1 : Option Bool
  dig2 : Option Bool
  dig3 : Option Bool
  sdata : Option Bool
  sclk : Option Bool
  slatch : Option Bool
  deriving DecidableEq, Repr

/-- The outputs as a function of the state. -/
def outputs (s : State) : Outputs :=
  { cmdReady := cmdReady s
    busy := s.busy
    configured := s.configured
    brtValid := s.brtValid
    dig0 := line s .dig0
    dig1 := line s .dig1
    dig2 := line s .dig2
    dig3 := line s .dig3
    sdata := line s .sdata
    sclk := line s .sclk
    slatch := line s .slatch }

end Sys2Proof.Machine
end

