-- ==== Sys2Proof/Machine/Run.lean ====
section
/-! DEFINITION. A run with the mark of 60_exceptions.md R174: a refused command marks the run refused, the mark is kept
(92_eei_decisions.md D31), and RST is the only way out (R175). `step` and `tick` say what the machine does in a run that
is not refused; a `Run` goes on where they answer with a refusal. -/

namespace Sys2Proof.Machine

/-- A run at one moment. -/
inductive Run where
  /-- no command refused so far, or none since the reset that left a refused run -/
  | on (s : State)
  /-- refused by name (R171), with the state the run was in when it was refused, the refused word taken from the port. Of
  that state only the parameters, the glyph ROM, the trace and the host's inputs have a meaning: the engine's registers
  and the external register are meaningless from here on (R174). -/
  | refused (r : Refusal) (s : State)
  deriving DecidableEq, Repr

/-- One moment of a refused run: RST leads out of it (R175, R200); until then the mark is kept, no word is accepted and
nothing is added to the trace (R174), and a pending RST comes one tick nearer (log entries 9 and 11). -/
def refusedMoment (r : Refusal) (s : State) : Run :=
  if resetNow s then .on (resetAfterRefusal s) else .refused r (idleTick s)

/-- A run one moment on, where `move` is what the machine does in a run that is not refused. -/
def runNext (move : State → Host.Outcome State Fault Refusal) : Run → Run
  | .on s =>
    match move s with
    | .next t => .on t
    | .fault f => nomatch f
    | .refused r => .refused r (consumeWord s)
  | .refused r s => refusedMoment r s

/-- A run one tick on: the event-level machine with its refused runs. -/
def runTick (u : Run) : Run := runNext tick u

/-- A run one step on: the command-level machine with its refused runs. -/
def runStep (u : Run) : Run := runNext step u

end Sys2Proof.Machine
end

