-- ==== Sys2Proof/Machine/Trace.lean ====
section
/-! DEFINITION. What the rules say about a list of events: clock edges and the bits they carry (42_shift.md R134 to R137),
the waits (43_render.md R162; 70_reset_and_hazards.md R215 to R217), the ROM reads and the digit-select windows (R160). -/

namespace Sys2Proof.Machine

/-- The number of events `PinLevel(SCLK, 1)`. From an idle clock each is a rising edge (R136). -/
def clockPulses : List Event → Nat
  | [] => 0
  | .pinLevel .sclk true :: es => clockPulses es + 1
  | _ :: es => clockPulses es

/-- The rising edges of the clock line over a list of events that starts with the clock at level `clk`: events that
raise it from 0 to 1 (R179). -/
def risingEdges : Bool → List Event → Nat
  | _, [] => 0
  | clk, .pinLevel .sclk true :: es => risingEdges true es + (if clk then 0 else 1)
  | _, .pinLevel .sclk false :: es => risingEdges false es
  | clk, _ :: es => risingEdges clk es

/-- The data levels at the events `PinLevel(SCLK, 1)`, the data line starting at level `d` (R134). -/
def clockedBits : Bool → List Event → List Bool
  | _, [] => []
  | d, .pinLevel .sclk true :: es => d :: clockedBits d es
  | _, .pinLevel .sdata l :: es => clockedBits l es
  | d, _ :: es => clockedBits d es

/-- The bits of a byte, most significant first (R55 (a)). -/
def msbFirst (v : Byte) : List Bool :=
  [bitOf v 7, bitOf v 6, bitOf v 5, bitOf v 4, bitOf v 3, bitOf v 2, bitOf v 1, bitOf v 0]

/-- The waits requested by a list of events, in microseconds: a lower bound on its real duration (R215, R216). -/
def waitSum : List Event → Nat
  | [] => 0
  | .wait n :: es => n + waitSum es
  | _ :: es => waitSum es

/-- The ticks that an event takes while RST stays away: one, and one more for a Wait that loads HOLD with a value other
than 0 (R178; log entries 9 and 10). -/
def ticksOfEvent : Event → Nat
  | .wait n => if BitVec.ofNat 16 n = 0#16 then 1 else 2
  | .pinDir _ => 1
  | .pinLevel _ _ => 1
  | .memRead _ _ => 1

/-- The ticks that a list of events takes. -/
def ticksOf (es : List Event) : Nat := (es.map ticksOfEvent).sum

/-- The character codes read from the ROM (R152). -/
def romReads : List Event → List Byte
  | [] => []
  | .memRead c _ :: es => c :: romReads es
  | _ :: es => romReads es

/-- The index of a digit-select role, none for a serial role. -/
def roleDigit : Role → Option (Fin 4)
  | .dig0 => some 0
  | .dig1 => some 1
  | .dig2 => some 2
  | .dig3 => some 3
  | .sdata => none
  | .sclk => none
  | .slatch => none

/-- The writes to the digit-select pins, in order: the digit and the level (R160). -/
def digitWrites : List Event → List (Fin 4 × Bool)
  | [] => []
  | .pinLevel r l :: es =>
    match roleDigit r with
    | some i => (i, l) :: digitWrites es
    | none => digitWrites es
  | _ :: es => digitWrites es

/-- The passes per second are at most this rate when RENDER is issued back to back (R217). The rate is exact, since the
rule rounds nothing: three digits at 2000 microseconds give 500/3. -/
def maxPassesPerSecond (s : State) : Rat :=
  1000000 / ((s.ndig.toNat * s.params.framePeriod.toNat : Nat) : Rat)

end Sys2Proof.Machine
end

