-- ==== Sys2Proof/Safety.lean ====
section
/-! DEFINITION. What counts as a good state and a good run, in the terms statements use: the quiescent state (10_state.md
R36), at most one conducting digit (R37), the range of the registers (R34, R35), the host's duties (70_reset_and_hazards.md
R213), and the states the machine can reach. -/

namespace Sys2Proof.Machine

/-- The serial lines are outputs (R134: "If OE = 1 for SDATA, SCLK and SLATCH"). -/
abbrev SerialDriven (s : State) : Prop := s.oe.sdata = true ∧ s.oe.sclk = true ∧ s.oe.slatch = true

/-- The engine is idle and RST will not be asserted before the next command completes: the conditions under which an
acceptable command runs from acceptance to completion (R28; R173: "only reset ends it early"). -/
abbrev Ready (s : State) : Prop := s.busy = false ∧ s.rstIn = none

/-- Each off level is the inverse of its on level (R22, R35). -/
abbrev LevelsInverse (s : State) : Prop := s.digitOff = (!s.digitOn) ∧ s.segOff = (!s.segOn)

/-- The legal values of NDIG (R21). -/
abbrev CountLegal (s : State) : Prop := 1 ≤ s.ndig.toNat ∧ s.ndig.toNat ≤ 4

/-- With BRT_VALID = 1, BRIGHT and ON_TIME have legal values (R23, R34); before that they are unwritten (R33). -/
abbrev BrightnessLegal (s : State) : Prop :=
  s.brtValid = true → s.bright.toNat ≤ 100 ∧ s.onTime.toNat ≤ s.params.framePeriod.toNat

/-- The pins of the quiescent state (R36): used digits driven at DIGIT_OFF, unused digits undriven at level 0, the three
serial lines driven, data and clock low, latch high. -/
abbrev Quiescent (s : State) : Prop :=
  (∀ i : Fin 4, s.oe.get (digitRole i) = decide (i.val < s.ndig.toNat) ∧
    s.lvl.get (digitRole i) = (decide (i.val < s.ndig.toNat) && s.digitOff)) ∧
  s.oe.sdata = true ∧ s.oe.sclk = true ∧ s.oe.slatch = true ∧
  s.lvl.sdata = false ∧ s.lvl.sclk = false ∧ s.lvl.slatch = true

/-- The pins after reset (R33): no line driven, every level 0. -/
abbrev Undriven (s : State) : Prop := s.oe = RoleBits.zero ∧ s.lvl = RoleBits.zero

/-- The external register is blank: both stages hold ALL_OFF_BYTE (R36). -/
abbrev Blank (s : State) : Prop := s.srShift = s.params.allOff ∧ s.srOut = s.params.allOff

/-- No more than one digit conducts (R37). -/
abbrev AtMostOneConducts (s : State) : Prop := (conducting s).length ≤ 1

/-- While BUSY = 0 the sequencer's registers are at their reset values (R33; log entry 2). -/
abbrev SequencerAtRest (s : State) : Prop :=
  s.op = 0#4 ∧ s.upc = 0 ∧ s.expansion = [] ∧ s.hold = 0#16

/-- The state a command is given in which it shows its effect in full: configured, idle, quiescent, with legal
registers (R34 to R36) and no RST coming. -/
abbrev Operating (s : State) : Prop :=
  Ready s ∧ SequencerAtRest s ∧ s.configured = true ∧ LevelsInverse s ∧ CountLegal s ∧ Quiescent s

/-- The events of the running command that are still to begin. -/
def remaining (s : State) : List Event :=
  s.expansion.drop (if s.hold = 0#16 then s.upc else s.upc + 1)

/-- The pins are as the rules want them, at this moment and for the rest of the running command: idle and unconfigured,
nothing is driven (R33); idle and configured, the pins are quiescent (R36); during a command, after every further event at
most one digit conducts (R37) and after the last the pins are quiescent. -/
def Coherent (s : State) : Prop :=
  if s.busy = true then
    s.upc < s.expansion.length ∧ LevelsInverse s ∧ CountLegal s ∧ (s.op = 1#4 ∨ s.configured = true) ∧
    (∀ k, AtMostOneConducts (performAll ((remaining s).take k) s)) ∧
    Quiescent (performAll (remaining s) s)
  else if s.configured = true then SequencerAtRest s ∧ LevelsInverse s ∧ CountLegal s ∧ Quiescent s
  else SequencerAtRest s ∧ Undriven s

/-- The input constraints the host must respect for a command not to be refused (R213; R105, R132, R133, R150). -/
def acceptable (i : Instr) (s : State) : Bool :=
  match i with
  | .init _ n d0 d1 d2 d3 data clk latch =>
    !s.configured && decide (1 ≤ n ∧ n ≤ 4) &&
    (usedPins n d0 d1 d2 d3 data clk latch).all s.params.validPin &&
    pinsDistinct (usedPins n d0 d1 d2 d3 data clk latch)
  | .setbrt _ => true
  | .render _ _ _ _ _ => s.configured && s.brtValid
  | .shout _ => s.params.diagOps && s.configured
  | .shwr _ => s.params.diagOps && s.configured

/-- The states of the event-level machine that some power-up, some parameters and glyph table as the spec asks for (R7,
R53) and some behaviour of the host lead to; the host may change what it offers and when it asserts RST at any moment. -/
inductive Reachable : State → Prop where
  | powerOn (params : Params) (mem : Memory) (srShift srOut : Byte) (hw : tableWf params mem = true) :
    Reachable (State.powerOn params mem srShift srOut)
  | host (s : State) (ws : List Word) (r : Option Nat) (h : Reachable s) :
    Reachable { s with offered := ws, rstIn := r }
  | tick (s t : State) (h : Reachable s) (ht : tick s = .next t) : Reachable t
  | afterRefusal (s : State) (r : Refusal) (h : Reachable s) (ht : tick s = .refused r) :
    Reachable (resetAfterRefusal (consumeWord s))

end Sys2Proof.Machine
end

