-- ==== Sys2Proof/Certificates/Slice0/Obligations.lean ====
section
/-! DEFINITION. The statements for the provers. Each says which rule of spec/ it formalises. Where a statement rests on a
choice of the model's or of the spec's own (a log entry, a decision D<n>), its docstring says so.

Throughout, a statement over every state quantifies over every FRAME_PERIOD, glyph table, pin predicate and level table,
because a State carries them (log entry 5). -/

open Sys2Proof Sys2Proof.Machine

/-! ### Encoding -/

/-- R70 to R76: the word of a well-formed command decodes to that command, with every operand at every value its field
admits. SHOUT and SHWR decode when DIAG_OPS is true (R71), the other three under either value. -/
def Obligations.EncodedCommandDecodesBack : Prop :=
  ∀ (i : Instr) (diag : Bool), i.wf = true → (diag = true ∨ (opcodeOf i).toNat ≤ 3) →
    decode diag (encode i) = .instr i

/-- R70 to R76, R79: a word that decodes is the word of the command it decodes to, so no two words stand for one
command and no bit of the word is dropped; the command is well-formed and the opcode field selects it. -/
def Obligations.DecodedWordIsItsEncoding : Prop :=
  ∀ (diag : Bool) (w : Word) (i : Instr), decode diag w = .instr i →
    i.wf = true ∧ encode i = w ∧ opcodeOf i = opcodeField w

/-- 95_test_vectors.md V-E1 to V-E16: the spec's own words and what they stand for. -/
def Obligations.SpecWordsDecodeAsWritten : Prop :=
  decode true 0x140203040508090A#64 = .instr (.init .commonCathode 4 2#8 3#8 4#8 5#8 8#8 9#8 10#8) ∧
  decode true 0x19070000000B0C0D#64 = .instr (.init .commonAnode 1 7#8 0#8 0#8 0#8 11#8 12#8 13#8) ∧
  decode true 0x1A060700000B0C0D#64 = .instr (.init .commonAnode 2 6#8 7#8 0#8 0#8 11#8 12#8 13#8) ∧
  decode true 0x2000000000000032#64 = .instr (.setbrt 50) ∧
  decode true 0x200000000000FFFF#64 = .instr (.setbrt (-1)) ∧
  decode true 0x2000000000000096#64 = .instr (.setbrt 150) ∧
  decode true 0x3000003331343100#64 = .instr (.render 0x33#8 0x31#8 0x34#8 0x31#8 0#8) ∧
  decode true 0x300000412D000000#64 = .instr (.render 0x41#8 0x2D#8 0#8 0#8 0#8) ∧
  decode true 0x30000033313431FF#64 = .instr (.render 0x33#8 0x31#8 0x34#8 0x31#8 0xFF#8) ∧
  decode true 0x40000000000000A5#64 = .instr (.shout 0xA5#8) ∧
  decode true 0x50000000000000FF#64 = .instr (.shwr 0xFF#8) ∧
  decode true 0x0000000000000000#64 = .reservedOpcode ∧
  decode true 0x6000000000000000#64 = .reservedOpcode ∧
  decode true 0x2000000000010032#64 = .reservedField ∧
  decode true 0x3000013331343100#64 = .reservedField ∧
  decode true 0x50000000000001FF#64 = .reservedField

/-- R77 and R78 at the command port: a word whose opcode selects no command is refused with ReservedOpcode (opcodes 4
and 5 when DIAG_OPS is false among them), a word with a nonzero reserved field with ReservedField, and every other
word is a command, whatever its ignored fields hold. -/
def Obligations.ReservedWordsAreRefused : Prop :=
  ∀ (s : State) (w : Word) (rest : List Word),
    s.busy = false → s.rstIn ≠ some 0 → s.offered = w :: rest →
    let op := (opcodeField w).toNat
    let selects := op = 1 ∨ op = 2 ∨ op = 3 ∨ (s.params.diagOps = true ∧ (op = 4 ∨ op = 5))
    let malformed := (op = 2 ∧ w.extractLsb' 16 44 ≠ 0#44) ∨ (op = 3 ∧ w.extractLsb' 40 20 ≠ 0#20) ∨
      ((op = 4 ∨ op = 5) ∧ w.extractLsb' 8 52 ≠ 0#52)
    (¬ selects → step s = .refused (.reservedOpcode w)) ∧
    (selects → malformed → step s = .refused (.reservedField w)) ∧
    (selects → ¬ malformed → ∃ i, decode s.params.diagOps w = .instr i)

/-- R55 (c): a word carried in bytes goes with the byte of bits 63 to 56 first and that of bits 7 to 0 last: those
eight bytes decode as the word does and what follows them is left, and they are the bytes the model lays a word out
in. Fewer than eight bytes are no word. -/
def Obligations.WordBytesGoMostSignificantFirst : Prop :=
  ∀ (diag : Bool) (w : Word) (rest : List Byte),
    let bytes := [w.extractLsb' 56 8, w.extractLsb' 48 8, w.extractLsb' 40 8, w.extractLsb' 32 8,
      w.extractLsb' 24 8, w.extractLsb' 16 8, w.extractLsb' 8 8, w.extractLsb' 0 8]
    decodeBytes diag (bytes ++ rest) = .word (decode diag w) rest ∧ wordBytes w = bytes ∧
    ∀ bs : List Byte, bs.length < 8 → decodeBytes diag bs = .incomplete

/-- R85: the lines of the spec's examples assemble to the spec's words (95_test_vectors.md V-E1, V-E5, V-E8, V-E9,
V-E10, V-E11). -/
def Obligations.SpecLinesAssemble : Prop :=
  assemble "INIT CC 4 2,3,4,5 8 9 10".toList = some 0x140203040508090A#64 ∧
  assemble "SETBRT -1".toList = some 0x200000000000FFFF#64 ∧
  assemble "RENDER \"A-\" 0".toList = some 0x300000412D000000#64 ∧
  assemble "RENDER \"3141\" 0xFF".toList = some 0x30000033313431FF#64 ∧
  assemble "SHOUT 0xA5".toList = some 0x40000000000000A5#64 ∧
  assemble "SHWR 0xFF".toList = some 0x50000000000000FF#64

/-! ### Reset, the port and the step -/

/-- R33: after power-on, with any parameters, any glyph table and any contents of the external register, the flags,
OE, LVL and HOLD are 0, no line is driven and the external register holds what it held. -/
def Obligations.PowerOnLeavesResetValues : Prop :=
  ∀ (params : Params) (mem : Memory) (a b : Byte),
    let s := State.powerOn params mem a b
    s.configured = false ∧ s.brtValid = false ∧ s.busy = false ∧ s.hold = 0#16 ∧
    (∀ r, s.oe.get r = false ∧ s.lvl.get r = false ∧ line s r = none) ∧
    s.srShift = a ∧ s.srOut = b ∧ s.trace = []

/-- R200: RST, asserted in any state, brings the engine's registers to the values of R33 and touches neither the glyph
ROM nor the external register; the events already emitted stay in the trace (R201). R174, R175: a refused command
marks the run refused with no event of it in the trace; the mark is kept, and nothing added to the trace, until RST,
which leads to the state of R200, whatever the external register then holds. The model's choices: the words the host
offers stay as they are and the assertion is over after one tick (log entries 8 and 9), and after a refused run the
external register holds free values (log entry 11). -/
def Obligations.RstResetsTheEngineAlone : Prop :=
  (∀ (s : State), s.rstIn = some 0 → ∃ t, step s = .next t ∧ tick s = .next t ∧
    t.configured = false ∧ t.brtValid = false ∧ t.busy = false ∧ t.hold = 0#16 ∧
    (∀ r, t.oe.get r = false ∧ t.lvl.get r = false ∧ line t r = none) ∧
    t.srShift = s.srShift ∧ t.srOut = s.srOut ∧ t.mem = s.mem ∧ t.params = s.params ∧
    t.trace = s.trace ∧ t.offered = s.offered ∧ t.rstIn = none) ∧
  (∀ (s t : State) (r : Refusal),
    (step s = .next t → runStep (.on s) = .on t) ∧ (tick s = .next t → runTick (.on s) = .on t) ∧
    (step s = .refused r → runStep (.on s) = .refused r { s with offered := s.offered.tail }) ∧
    (tick s = .refused r → runTick (.on s) = .refused r { s with offered := s.offered.tail })) ∧
  (∀ (s : State) (r : Refusal), runStep (.refused r s) = runTick (.refused r s) ∧
    (s.rstIn = none → runTick (.refused r s) = .refused r s) ∧
    (∀ k, s.rstIn = some (k + 1) → runTick (.refused r s) = .refused r { s with rstIn := some k }) ∧
    (s.rstIn = some 0 → ∃ t, runTick (.refused r s) = .on t ∧
      t.configured = false ∧ t.brtValid = false ∧ t.busy = false ∧ t.hold = 0#16 ∧
      (∀ q, t.oe.get q = false ∧ t.lvl.get q = false ∧ line t q = none) ∧
      t.mem = s.mem ∧ t.params = s.params ∧ t.trace = s.trace ∧ t.offered = s.offered ∧ t.rstIn = none))

/-- R200, R28: an idle engine with no word offered and no RST coming waits. That the words the host will offer are a
list in State is the model's choice (log entry 8). -/
def Obligations.IdleEngineWaitsForACommand : Prop :=
  ∀ (s : State), Ready s → s.offered = [] → step s = .next s ∧ tick s = .next s

/-- A step runs the decoded command: with BUSY = 0 and RST not asserted, the word at the port that decodes to `i` is
consumed and the step is exec of `i` (R25, R28, R70). That the words stand in a list in State is the model's choice
(log entry 8). -/
def Obligations.StepRunsTheDecodedCommand : Prop :=
  ∀ (s : State) (w : Word) (rest : List Word) (i : Instr),
    s.busy = false → s.rstIn ≠ some 0 → s.offered = w :: rest → decode s.params.diagOps w = .instr i →
    step s = exec i { s with offered := rest }

/-- R28, R212: while BUSY = 1 the offered word waits unchanged: the command in progress runs to its end first, and a
command given to a busy engine is the command given when the engine is idle again. That the words stand in a list in
State is the model's choice (log entry 8). -/
def Obligations.BusyEngineMakesTheWordWait : Prop :=
  ∀ (s : State), s.busy = true → s.rstIn ≠ some 0 →
    (∃ t, step s = .next t ∧ t.busy = false ∧ t.offered = s.offered) ∧
    (∃ t, tick s = .next t ∧ t.offered = s.offered) ∧
    (∀ i, ∃ t, step s = .next t ∧ exec i s = exec i t)

/-- R213, R171, R18: an idle engine accepts exactly the commands whose host respects the input constraints, for every
one of the five commands, and refuses the others. An accepted command leaves the engine idle; with RST away it
completes: it has emitted its whole event list in order. No command faults (R170). -/
def Obligations.CommandsCompleteExactlyWhenAcceptable : Prop :=
  ∀ (i : Instr) (s : State), s.busy = false →
    (acceptable i s = true → ∃ a t, accept i s = .next a ∧ exec i s = .next t ∧ t.busy = false ∧
      (s.rstIn = none → t.trace = s.trace ++ (if a.busy then a.expansion else []))) ∧
    (acceptable i s = false → ∃ r, exec i s = .refused r)

/-! ### The sequencer -/

/-- R25, the event-level machine and the command-level machine agree: every step that answers a next state is some
number of ticks, one event at a time, and a step is refused exactly when the tick is. How many ticks an event takes is
the model's choice (log entries 9 and 10). -/
def Obligations.StepIsARunOfTicks : Prop :=
  (∀ (s t : State), step s = .next t → ∃ n, ticks n s = .next t) ∧
  (∀ (s : State) (r : Refusal), step s = .refused r ↔ tick s = .refused r)

/-- R25, R17: with BUSY = 1, no hold in progress and no RST coming, a tick performs event number UPC, appends it to
the trace and increments UPC; after the last event the command is complete and BUSY is 0. Performing PinDir(r) sets
OE[r], performing PinLevel(r, l) sets LVL[r] to l, and a ROM read changes nothing but the trace; what an event does to
the external register has two statements of its own (R179, R180). (An event that is no Wait; the hold has a statement
of its own too. What the sequencer's registers hold after the last event is the model's choice, log entry 2.) -/
def Obligations.TickPerformsEventNumberUpc : Prop :=
  ∀ (s : State) (e : Event), s.busy = true → s.rstIn = none → s.hold = 0#16 → s.expansion[s.upc]? = some e →
    (∀ n, e ≠ .wait n) →
    (s.upc + 1 < s.expansion.length → tick s = .next { perform e s with upc := s.upc + 1 }) ∧
    (s.upc + 1 = s.expansion.length → tick s = .next (complete (perform e s)) ∧
      (complete (perform e s)).busy = false) ∧
    (perform e s).trace = s.trace ++ [e] ∧
    (∀ r, e = .pinDir r → (perform e s).lvl = s.lvl ∧
      ∀ q, (perform e s).oe.get q = (decide (q = r) || s.oe.get q)) ∧
    (∀ r l, e = .pinLevel r l → (perform e s).oe = s.oe ∧
      ∀ q, (perform e s).lvl.get q = if q = r then l else s.lvl.get q) ∧
    (∀ c p, e = .memRead c p → perform e s = { s with trace := s.trace ++ [e] })

/-- R27, R178: a Wait(n) loads HOLD with n and is recorded in the trace; while it lasts no other register changes; its
end moves UPC on with HOLD at 0, or completes the command if it was the last event. Wait(0) ends at once. That HOLD
goes to 0 in one tick is the model's choice (log entry 10). -/
def Obligations.WaitLoadsTheHoldTimer : Prop :=
  ∀ (s : State) (n : Nat), s.busy = true → s.rstIn = none → s.hold = 0#16 →
    s.expansion[s.upc]? = some (.wait n) → n < 65536 →
    (0 < n → tick s = .next { s with hold := BitVec.ofNat 16 n, trace := s.trace ++ [.wait n] }) ∧
    (0 < n → s.upc + 1 < s.expansion.length →
      ticks 2 s = .next { s with upc := s.upc + 1, trace := s.trace ++ [.wait n] }) ∧
    (0 < n → s.upc + 1 = s.expansion.length →
      ∃ t, ticks 2 s = .next t ∧ t.busy = false ∧ t.hold = 0#16 ∧ t.trace = s.trace ++ [.wait n]) ∧
    (n = 0 → s.upc + 1 < s.expansion.length →
      tick s = .next { s with upc := s.upc + 1, trace := s.trace ++ [.wait n] }) ∧
    (n = 0 → s.upc + 1 = s.expansion.length →
      ∃ t, tick s = .next t ∧ t.busy = false ∧ t.hold = 0#16 ∧ t.trace = s.trace ++ [.wait n])

/-- R201: RST asserted during a command abandons the expansion: the events begun stay in the trace, none follows, the
engine's registers are at their reset values and the external register is where the abandoned frame left it. RST comes
`k` ticks after acceptance, at any tick before the command is complete, a hold in progress among them; `j` is the
number of events begun by then, the least whose ticks reach `k`, and it is `k` when no hold is among them. An RST that
comes later finds the command complete. Counting RST in ticks, and a hold as two, is the model's choice (log entries 9
and 10). -/
def Obligations.RstAbandonsTheCommand : Prop :=
  ∀ (i : Instr) (s a : State) (k : Nat), s.busy = false → accept i s = .next a → s.rstIn = some k → a.busy = true →
    (k < ticksOf a.expansion →
      ∃ j, k ≤ ticksOf (a.expansion.take j) ∧ (∀ j', j' < j → ticksOf (a.expansion.take j') < k) ∧
        exec i s = .next (engineReset (performAll (a.expansion.take j) a)) ∧
        ((∀ e ∈ a.expansion.take k, ∀ n, e ≠ .wait n) → j = k)) ∧
    (a.expansion ≠ [] → ticksOf a.expansion ≤ k →
      exec i s = .next
        { complete (performAll a.expansion a) with rstIn := some (k - ticksOf a.expansion) })

/-! ### Brightness -/

/-- R120 to R122: SETBRT completes in every idle state. BRIGHT is the percent clamped to 0 to 100, ON_TIME is floor(c
* FRAME_PERIOD / 100) (with ROUND = NEAREST, floor((c * FRAME_PERIOD + 50) / 100)), BRT_VALID is 1, and nothing else
changes: no pin, no event. -/
def Obligations.SetbrtSetsBrightness : Prop :=
  ∀ (p : Int) (s : State), s.busy = false →
    ∃ t, exec (.setbrt p) s = .next t ∧
      (t.bright.toNat : Int) = max 0 (min p 100) ∧
      (s.params.round = .floor → t.onTime.toNat = t.bright.toNat * s.params.framePeriod.toNat / 100) ∧
      (s.params.round = .nearest → t.onTime.toNat = (t.bright.toNat * s.params.framePeriod.toNat + 50) / 100) ∧
      t = { s with bright := t.bright, onTime := t.onTime, brtValid := true }

/-- R121: clamp(p) = 0 if p < 0; p if 0 <= p <= 100; 100 if p > 100. "For percent > 100, setBrightness clamps to the
same result as setBrightness(100)." -/
def Obligations.PercentIsClamped : Prop :=
  (∀ p : Int, (p < 0 → clampPercent p = 0) ∧ (0 ≤ p → p ≤ 100 → (clampPercent p : Int) = p) ∧
    (100 < p → clampPercent p = 100)) ∧
  (∀ (p : Int) (s : State), (100 < p → exec (.setbrt p) s = exec (.setbrt 100) s) ∧
    (p < 0 → exec (.setbrt p) s = exec (.setbrt 0) s))

/-- R122, R123: the brightness map is monotone, sends 0 to 0 and 100 to FRAME_PERIOD, stays within FRAME_PERIOD, fits
the 16 bits of ON_TIME and the 23 bits of the product, and the two roundings agree when 100 divides the product. -/
def Obligations.BrightnessMapLaws : Prop :=
  ∀ (fp : BitVec 16) (round : Rounding) (c d : Nat), c ≤ d → d ≤ 100 →
    onTimeOf round fp.toNat c ≤ onTimeOf round fp.toNat d ∧
    onTimeOf round fp.toNat 0 = 0 ∧ onTimeOf round fp.toNat 100 = fp.toNat ∧
    onTimeOf round fp.toNat d ≤ fp.toNat ∧ d * fp.toNat < 2 ^ 23 ∧
    (BitVec.ofNat 16 (onTimeOf round fp.toNat d)).toNat = onTimeOf round fp.toNat d ∧
    (100 ∣ c * fp.toNat → onTimeOf .floor fp.toNat c = onTimeOf .nearest fp.toNat c)

/-- R34: in every reachable state with BRT_VALID = 1, ON_TIME is at most FRAME_PERIOD and ON_TIME + OFF_TIME is
FRAME_PERIOD. -/
def Obligations.OnTimePlusOffTimeIsFramePeriod : Prop :=
  ∀ (s : State), Reachable s → s.brtValid = true →
    s.onTime.toNat ≤ s.params.framePeriod.toNat ∧ s.onTime.toNat + offTime s = s.params.framePeriod.toNat

/-! ### Configuration -/

/-- R105: the tests of INIT in their order; the first that fails names the refusal, and an INIT that passes all four
answers a next state. The identifiers tested are the first n digit pins and the three serial pins. -/
def Obligations.InitTestsInOrder : Prop :=
  ∀ (pol : Polarity) (n : Nat) (d0 d1 d2 d3 data clk latch : Byte) (s : State), s.busy = false →
    let i := Instr.init pol n d0 d1 d2 d3 data clk latch
    let used := List.take n [d0, d1, d2, d3] ++ [data, clk, latch]
    let valid := ∀ p ∈ used, s.params.validPin p = true
    (s.configured = true → exec i s = .refused (.alreadyConfigured (encode i))) ∧
    (s.configured = false → ¬ (1 ≤ n ∧ n ≤ 4) → exec i s = .refused (.badDigitCount (encode i))) ∧
    (s.configured = false → 1 ≤ n → n ≤ 4 → ¬ valid → exec i s = .refused (.invalidPin (encode i))) ∧
    (s.configured = false → 1 ≤ n → n ≤ 4 → valid → ¬ used.Nodup →
      exec i s = .refused (.pinsNotDistinct (encode i))) ∧
    (s.configured = false → 1 ≤ n → n ≤ 4 → valid → used.Nodup → ∃ t, exec i s = .next t)

/-- R100 to R104, R106: what an acceptable INIT does, as one equation for the state it leaves: the configuration and
level registers, the pins of the used digits driven at DIGIT_OFF, the serial lines driven with data and clock low and
latch high, both stages of the external register at ALL_OFF_BYTE, CONFIGURED = 1 and the events of R102 to R104 in the
trace. Every other register, the unused digits' pins among them, is as it was, but that OP, UPC, the expansion and
HOLD are at rest after the command, which is the model's choice (log entry 2). -/
def Obligations.InitConfiguresAndBlanks : Prop :=
  ∀ (pol : Polarity) (n : Nat) (d0 d1 d2 d3 data clk latch : Byte) (s : State), Ready s →
    acceptable (.init pol n d0 d1 d2 d3 data clk latch) s = true →
    let on := match pol with
      | .commonCathode => s.params.levels.ccDigitOn
      | .commonAnode => s.params.levels.caDigitOn
    let seg := match pol with
      | .commonCathode => s.params.levels.ccSegOn
      | .commonAnode => s.params.levels.caSegOn
    let events := (List.take n [0, 1, 2, 3]).flatMap
        (fun i => [Event.pinLevel (digitRole i) (!on), Event.pinDir (digitRole i)]) ++
      [.pinDir .sdata, .pinDir .sclk, .pinDir .slatch, .pinLevel .sdata false, .pinLevel .sclk false] ++
      shiftWrite s.params.allOff
    events.length = 2 * n + 40 ∧
    exec (.init pol n d0 d1 d2 d3 data clk latch) s = .next
      { s with
        pol := pol
        ndig := BitVec.ofNat 3 n
        digpin :=
          { b0 := if 0 < n then d0 else s.digpin.b0
            b1 := if 1 < n then d1 else s.digpin.b1
            b2 := if 2 < n then d2 else s.digpin.b2
            b3 := if 3 < n then d3 else s.digpin.b3 }
        pinData := data
        pinClk := clk
        pinLatch := latch
        digitOn := on
        digitOff := !on
        segOn := seg
        segOff := !seg
        oe :=
          { dig0 := decide (0 < n) || s.oe.dig0
            dig1 := decide (1 < n) || s.oe.dig1
            dig2 := decide (2 < n) || s.oe.dig2
            dig3 := decide (3 < n) || s.oe.dig3
            sdata := true
            sclk := true
            slatch := true }
        lvl :=
          { dig0 := if 0 < n then !on else s.lvl.dig0
            dig1 := if 1 < n then !on else s.lvl.dig1
            dig2 := if 2 < n then !on else s.lvl.dig2
            dig3 := if 3 < n then !on else s.lvl.dig3
            sdata := false
            sclk := false
            slatch := true }
        srShift := s.params.allOff
        srOut := s.params.allOff
        trace := s.trace ++ events
        configured := true
        op := 0#4
        upc := 0
        expansion := []
        hold := 0#16 }

/-- R102, R207: an INIT given to an engine that drives nothing never drives a digit line at DIGIT_ON: after every
event of its expansion no digit conducts. -/
def Obligations.InitNeverFlashesADigit : Prop :=
  ∀ (pol : Polarity) (n : Nat) (d0 d1 d2 d3 data clk latch : Byte) (s a : State), Undriven s →
    accept (.init pol n d0 d1 d2 d3 data clk latch) s = .next a →
    ∀ k, conducting (performAll (a.expansion.take k) a) = []

/-- R24: after an INIT completes, the map from the used roles to pin identifiers is injective, and each used pin
carries the level of its own role's line. -/
def Obligations.PinMapIsInjectiveAfterInit : Prop :=
  ∀ (pol : Polarity) (n : Nat) (d0 d1 d2 d3 data clk latch : Byte) (s t : State), Ready s →
    exec (.init pol n d0 d1 d2 d3 data clk latch) s = .next t →
    (∀ r ∈ usedRoles t, ∀ q ∈ usedRoles t, pinOf t r = pinOf t q → r = q) ∧
    (∀ r ∈ usedRoles t, pinLine t (pinOf t r) = line t r)

/-- R101: the level values the spec decides for LEVELS, by mode: DIGIT_ON, DIGIT_OFF, SEG_ON, SEG_OFF. The values are
the spec's general knowledge (PRESUMED, log entry 5), kept as the default of a parameter. -/
def Obligations.DefaultLevelsByMode : Prop :=
  ∀ (n : Nat) (d0 d1 d2 d3 data clk latch : Byte) (s t : State), Ready s → s.params.levels = LevelTable.default →
    (exec (.init .commonCathode n d0 d1 d2 d3 data clk latch) s = .next t →
      t.digitOn = false ∧ t.digitOff = true ∧ t.segOn = true ∧ t.segOff = false) ∧
    (exec (.init .commonAnode n d0 d1 d2 d3 data clk latch) s = .next t →
      t.digitOn = true ∧ t.digitOff = false ∧ t.segOn = false ∧ t.segOff = true)

/-! ### The shift family -/

/-- R132, R133, R172: the preconditions of SHOUT and SHWR in order: DIAG_OPS, then CONFIGURED. -/
def Obligations.DiagnosticsTestInOrder : Prop :=
  ∀ (b : Byte) (s : State), s.busy = false →
    (s.params.diagOps = false →
      exec (.shout b) s = .refused (.reservedOpcode (encode (.shout b))) ∧
      exec (.shwr b) s = .refused (.reservedOpcode (encode (.shwr b)))) ∧
    (s.params.diagOps = true → s.configured = false →
      exec (.shout b) s = .refused (.notConfigured (encode (.shout b))) ∧
      exec (.shwr b) s = .refused (.notConfigured (encode (.shwr b))))

/-- R130, R132, R134: SHOUT shifts its byte into SR_SHIFT and leaves SR_OUT as it was; clock and data end low; the
trace gets the 33 events of SHIFTOUT; nothing else changes, but that OP, UPC, the expansion and HOLD are at rest after
the command, which is the model's choice (log entry 2). -/
def Obligations.ShoutShiftsWithoutLatching : Prop :=
  ∀ (b : Byte) (s : State), Ready s → s.params.diagOps = true → s.configured = true → SerialDriven s →
    exec (.shout b) s = .next
      { s with
        lvl := { s.lvl with sdata := false, sclk := false }
        srShift := b
        trace := s.trace ++ shiftOut b
        op := 0#4
        upc := 0
        expansion := []
        hold := 0#16 }

/-- R131, R133, R134: SHWR leaves its byte in both stages; clock and data end low, latch high; the trace gets the 35
events of SHIFTWRITE; nothing else changes, but that OP, UPC, the expansion and HOLD are at rest after the command,
which is the model's choice (log entry 2). -/
def Obligations.ShwrLatchesItsByte : Prop :=
  ∀ (b : Byte) (s : State), Ready s → s.params.diagOps = true → s.configured = true → SerialDriven s →
    exec (.shwr b) s = .next
      { s with
        lvl := { s.lvl with sdata := false, sclk := false, slatch := true }
        srShift := b
        srOut := b
        trace := s.trace ++ shiftWrite b
        op := 0#4
        upc := 0
        expansion := []
        hold := 0#16 }

/-- R81, R82, R83: the frames. A byte is eight bit cells from bit 7 down and one more clock-low event, 33 events with
eight rising clock edges from an idle clock; the latched frame brackets it, 35 events. -/
def Obligations.SerialFramesAreBitExact : Prop :=
  ∀ v : Byte,
    shiftOut v = ([7, 6, 5, 4, 3, 2, 1, 0].flatMap fun k =>
      [.pinLevel .sclk false, .pinLevel .sdata (v.getLsbD k), .pinLevel .sclk true, .pinLevel .sdata false]) ++
      [.pinLevel .sclk false] ∧
    shiftWrite v = [.pinLevel .slatch false] ++ shiftOut v ++ [.pinLevel .slatch true] ∧
    (shiftOut v).length = 33 ∧ risingEdges false (shiftOut v) = 8 ∧ (shiftWrite v).length = 35

/-- R136, R134, R55 (a): from an idle clock, SHIFTOUT has exactly eight rising clock edges, the data levels at them
are the bits of the byte from bit 7 down to bit 0, and the clock is low at the end. -/
def Obligations.EightEdgesCarryTheByte : Prop :=
  ∀ (v : Byte) (d : Bool) (s : State),
    risingEdges false (shiftOut v) = 8 ∧ clockPulses (shiftOut v) = 8 ∧ clockedBits d (shiftOut v) = msbFirst v ∧
    (performAll (shiftOut v) s).lvl.sclk = false

/-- R135: the latch line is 0 from the first event of a SHIFTWRITE to its last, and a bare SHIFTOUT keeps whatever
level it has. -/
def Obligations.LatchIsLowWhileShifting : Prop :=
  ∀ (v : Byte) (s : State) (k : Nat),
    (1 ≤ k → k ≤ 34 → (performAll ((shiftWrite v).take k) s).lvl.slatch = false) ∧
    (35 ≤ k → (performAll ((shiftWrite v).take k) s).lvl.slatch = true) ∧
    (performAll ((shiftOut v).take k) s).lvl.slatch = s.lvl.slatch

/-- R57, R131: SR_OUT changes only at the last event of a SHIFTWRITE, and then it is the whole byte; a SHIFTOUT never
changes it. -/
def Obligations.OutputsChangeOnlyAtTheLatch : Prop :=
  ∀ (v : Byte) (s : State) (k : Nat),
    (k ≤ 34 → (performAll ((shiftWrite v).take k) s).srOut = s.srOut) ∧
    (35 ≤ k → SerialDriven s → (performAll ((shiftWrite v).take k) s).srOut = v) ∧
    (performAll ((shiftOut v).take k) s).srOut = s.srOut

/-- R137, R81: in the bit cell of bit 7 - j the data line is set to the bit only after the clock has been lowered,
keeps it over the rising edge, and is back at 0 before the next cell begins and before the micro-operation ends;
before the first cell it is 0 if it was 0 at the start. -/
def Obligations.DataLineIsLowBetweenCells : Prop :=
  ∀ (v : Byte) (s : State) (j : Nat), j < 8 →
    let at' := fun k => (performAll ((shiftOut v).take k) s).lvl
    ((at' (4 * j + 1)).sclk = false ∧ (1 ≤ j ∨ s.lvl.sdata = false → (at' (4 * j + 1)).sdata = false)) ∧
    ((at' (4 * j + 2)).sclk = false ∧ (at' (4 * j + 2)).sdata = v.getLsbD (7 - j)) ∧
    ((at' (4 * j + 3)).sclk = true ∧ (at' (4 * j + 3)).sdata = v.getLsbD (7 - j)) ∧
    ((at' (4 * j + 4)).sclk = true ∧ (at' (4 * j + 4)).sdata = false) ∧
    (at' 33).sdata = false

/-- R179: an event shifts SR_SHIFT exactly when it is PinLevel(SCLK, 1) with OE[SCLK] = 1 and LVL[SCLK] = 0: then
every bit moves one place up and bit 0 takes LVL[SDATA] if SDATA is driven (and a free value if not). -/
def Obligations.ShiftStageMovesOnClockEdgesAlone : Prop :=
  ∀ (e : Event) (s : State),
    let t := perform e s
    (e = .pinLevel .sclk true → s.oe.sclk = true → s.lvl.sclk = false →
      (∀ i, i < 7 → t.srShift.getLsbD (i + 1) = s.srShift.getLsbD i) ∧
      (s.oe.sdata = true → t.srShift.getLsbD 0 = s.lvl.sdata)) ∧
    (¬ (e = .pinLevel .sclk true ∧ s.oe.sclk = true ∧ s.lvl.sclk = false) → t.srShift = s.srShift)

/-- R180: an event changes SR_OUT exactly when it is PinLevel(SLATCH, 1) with OE[SLATCH] = 1 and LVL[SLATCH] = 0: then
SR_OUT takes SR_SHIFT, all eight bits at once. -/
def Obligations.OutputStageCopiesOnLatchEdgesAlone : Prop :=
  ∀ (e : Event) (s : State),
    (perform e s).srOut =
      if e = .pinLevel .slatch true ∧ s.oe.slatch = true ∧ s.lvl.slatch = false then s.srShift else s.srOut

/-! ### Refresh -/

/-- R150, R172: the preconditions of RENDER in order: CONFIGURED, then BRT_VALID. -/
def Obligations.RenderTestsInOrder : Prop :=
  ∀ (t0 t1 t2 t3 m : Byte) (s : State), s.busy = false →
    let i := Instr.render t0 t1 t2 t3 m
    (s.configured = false → exec i s = .refused (.notConfigured (encode i))) ∧
    (s.configured = true → s.brtValid = false → exec i s = .refused (.brightnessUnwritten (encode i)))

/-- R150 to R155, R158: what a RENDER does, as one equation for the state it leaves, with the events of every digit
cycle in order. `p i` is the pattern read for digit i: the ROM's byte for a supported code, 0x00 for an unsupported
one under BLANK, and under DRAW a value of which nothing is known. The model's choices in the equation: OP, UPC, the
expansion and HOLD are at rest after the command (log entry 2), TEXT and DPMASK keep what they latched (log entry 14),
and the count of free values is a field of State (log entry 6). -/
def Obligations.RenderPerformsOnePass : Prop :=
  ∀ (t0 t1 t2 t3 m : Byte) (s : State), Ready s → s.configured = true → s.brtValid = true → SerialDriven s →
    1 ≤ s.ndig.toNat →
    let text : FourBytes := { b0 := t0, b1 := t1, b2 := t2, b3 := t3 }
    let n := s.ndig.toNat
    ∃ (p : Fin 4 → Byte) (draws : Nat),
      (∀ i, text.get i ∈ s.params.supported → p i = s.mem.read (text.get i).toNat) ∧
      (∀ i, text.get i ∉ s.params.supported → s.params.unsupported = .blank → p i = 0#8) ∧
      (s.params.unsupported = .blank → draws = s.draws) ∧
      exec (.render t0 t1 t2 t3 m) s = .next
        { s with
          text := text
          dpmask := m
          lvl :=
            { dig0 := if 0 < n then s.digitOff else s.lvl.dig0
              dig1 := if 1 < n then s.digitOff else s.lvl.dig1
              dig2 := if 2 < n then s.digitOff else s.lvl.dig2
              dig3 := if 3 < n then s.digitOff else s.lvl.dig3
              sdata := false
              sclk := false
              slatch := true }
          srShift := s.params.allOff
          srOut := s.params.allOff
          draws := draws
          trace := s.trace ++ (List.take n [0, 1, 2, 3]).flatMap fun i =>
            [Event.pinLevel (digitRole i) s.digitOn, .memRead (text.get i) (p i)] ++ shiftWrite (~~~ (p i)) ++
            [.wait (onHold s)] ++ shiftWrite s.params.allOff ++
            [.pinLevel (digitRole i) s.digitOff, .wait (s.params.framePeriod.toNat - s.onTime.toNat)]
          op := 0#4
          upc := 0
          expansion := []
          hold := 0#16 }

/-- R125: the on-hold is max(ON_TIME, 1) under CLAMP, never 0, and ON_TIME + 1 under BIAS. -/
def Obligations.OnHoldHasAMinimum : Prop :=
  ∀ s : State,
    (s.params.onHoldMode = .clamp → onHold s = max s.onTime.toNat 1) ∧
    (s.params.onHoldMode = .bias → onHold s = s.onTime.toNat + 1) ∧
    1 ≤ onHold s

/-- R159: a RENDER that starts in the quiescent blank state ends in it: every register of R21 to R24 and R28, SR_SHIFT
and SR_OUT are as they were. With no free value drawn (BLANK, or every used character supported), the same RENDER
again emits the same events again. The model's choices in the equation: OP, UPC, the expansion and HOLD are at rest
again (log entry 2), TEXT and DPMASK keep what they latched (log entry 14), and the count of free values is a field of
State (log entry 6). -/
def Obligations.RenderIsIdempotent : Prop :=
  ∀ (t0 t1 t2 t3 m : Byte) (s : State), Operating s → Blank s → s.brtValid = true →
    let text : FourBytes := { b0 := t0, b1 := t1, b2 := t2, b3 := t3 }
    ∃ (events : List Event) (draws : Nat),
      exec (.render t0 t1 t2 t3 m) s = .next
        { s with text := text, dpmask := m, draws := draws, trace := s.trace ++ events } ∧
      ((s.params.unsupported = .blank ∨
          ∀ i : Fin 4, i.val < s.ndig.toNat → text.get i ∈ s.params.supported) →
        ∃ u, exec (.render t0 t1 t2 t3 m)
            { s with text := text, dpmask := m, draws := draws, trace := s.trace ++ events } = .next u ∧
          u.trace = s.trace ++ events ++ events)

/-- R160: a RENDER with NDIG digits has exactly NDIG digit-select windows, one for each digit from the left, each
opened by DIGIT_ON and closed by DIGIT_OFF before the next opens, and the write just before each closing is the
blanking write. -/
def Obligations.OneWindowForEachDigit : Prop :=
  ∀ (t0 t1 t2 t3 m : Byte) (s a : State), LevelsInverse s → accept (.render t0 t1 t2 t3 m) s = .next a →
    digitWrites a.expansion =
      (List.take s.ndig.toNat [0, 1, 2, 3]).flatMap (fun i => [(i, s.digitOn), (i, s.digitOff)]) ∧
    (∀ (i : Fin 4) (before after : List Event),
      a.expansion = before ++ [.pinLevel (digitRole i) s.digitOff] ++ after →
      ∃ earlier, before = earlier ++ shiftWrite s.params.allOff)

/-- R153: the on-hold of digit i is event 75 * i + 37 of the expansion, a Wait of max(ON_TIME, 1); when it begins,
digit i and no other conducts, SR_OUT is NOT8 of the pattern read for it, and exactly the segments of that pattern are
lit. -/
def Obligations.OnHoldShowsTheGlyph : Prop :=
  ∀ (t0 t1 t2 t3 m : Byte) (s a : State), Operating s → s.params.onHoldMode = .clamp →
    accept (.render t0 t1 t2 t3 m) s = .next a →
    ∀ i : Fin 4, i.val < s.ndig.toNat →
      let u := performAll (a.expansion.take (75 * i.val + 37)) a
      a.expansion[75 * i.val + 37]? = some (.wait (max s.onTime.toNat 1)) ∧ max s.onTime.toNat 1 ≠ 0 ∧
      conducting u = [i] ∧
      ∃ c p, a.expansion[75 * i.val + 1]? = some (.memRead c p) ∧ c = a.text.get i ∧
        u.srOut = ~~~ p ∧ ∀ seg : Fin 8, lit u i seg = p.getLsbD seg.val

/-- R155: the off-hold of digit i is event 75 * i + 74, a Wait of FRAME_PERIOD - ON_TIME; when it begins no digit
conducts and SR_OUT is ALL_OFF_BYTE. The off-hold of the last digit is the last event of the pass. -/
def Obligations.OffHoldIsDark : Prop :=
  ∀ (t0 t1 t2 t3 m : Byte) (s a : State), Operating s → accept (.render t0 t1 t2 t3 m) s = .next a →
    a.expansion.length = 75 * s.ndig.toNat ∧
    ∀ i : Fin 4, i.val < s.ndig.toNat →
      let u := performAll (a.expansion.take (75 * i.val + 74)) a
      a.expansion[75 * i.val + 74]? = some (.wait (s.params.framePeriod.toNat - s.onTime.toNat)) ∧
      conducting u = [] ∧ u.srOut = s.params.allOff

/-- R161: in a RENDER that starts blank (with ALL_OFF_BYTE = 0xFF, R10), a segment is lit only on digit i between the
last event of its step 3 and the last event of its step 5, and it is then a segment of the pattern read for it. -/
def Obligations.NothingIsLitOutsideTheGlyph : Prop :=
  ∀ (t0 t1 t2 t3 m : Byte) (s a : State), Operating s → Blank s → s.params.allOff = 0xFF#8 →
    accept (.render t0 t1 t2 t3 m) s = .next a →
    ∀ (k : Nat) (i : Fin 4) (seg : Fin 8), k ≤ a.expansion.length →
      (lit (performAll (a.expansion.take k) a) i seg = true ↔
        i.val < s.ndig.toNat ∧ 75 * i.val + 37 ≤ k ∧ k ≤ 75 * i.val + 72 ∧
        ∃ c p, a.expansion[75 * i.val + 1]? = some (.memRead c p) ∧ p.getLsbD seg.val = true)

/-- R211: a RENDER given while SR_OUT holds another byte shows that byte's segments on digit 0 from step 1 until the
latch pulse of step 3. -/
def Obligations.StaleByteShowsOnDigitZero : Prop :=
  ∀ (t0 t1 t2 t3 m : Byte) (s a : State), Operating s → accept (.render t0 t1 t2 t3 m) s = .next a →
    ∀ k, 1 ≤ k → k ≤ 36 →
      let u := performAll (a.expansion.take k) a
      conducting u = [0] ∧ u.srOut = s.srOut ∧ ∀ seg : Fin 8, lit u 0 seg = !(s.srOut.getLsbD seg.val)

/-- R157, R158: the mask and the text slots at and beyond NDIG have no effect on the pass: only DPMASK and TEXT
differ, and no ROM read is made for such a slot. That TEXT and DPMASK keep what they latched is the model's choice
(log entry 14). -/
def Obligations.MaskAndUnusedSlotsHaveNoEffect : Prop :=
  ∀ (t0 t1 t2 t3 m u0 u1 u2 u3 m' : Byte) (s : State), Ready s → s.configured = true → s.brtValid = true →
    let text : FourBytes := { b0 := t0, b1 := t1, b2 := t2, b3 := t3 }
    let text' : FourBytes := { b0 := u0, b1 := u1, b2 := u2, b3 := u3 }
    (∀ i : Fin 4, i.val < s.ndig.toNat → text.get i = text'.get i) →
    ∃ (t : State) (events : List Event),
      exec (.render t0 t1 t2 t3 m) s = .next t ∧
      exec (.render u0 u1 u2 u3 m') s = .next { t with text := text', dpmask := m' } ∧
      t.trace = s.trace ++ events ∧ romReads events = (List.take s.ndig.toNat [0, 1, 2, 3]).map text.get

/-- R162, R216, R217: the waits of one pass add up to NDIG * FRAME_PERIOD when ON_TIME >= 1 and to NDIG *
(FRAME_PERIOD + 1) when ON_TIME = 0, so a pass lasts at least NDIG * FRAME_PERIOD microseconds, and the rate of
back-to-back passes is at most 1000000 / (NDIG * FRAME_PERIOD) per second, with nothing rounded: however many passes
have their waits in some microseconds, they are no more than that rate allows in them. -/
def Obligations.WaitsOfAPass : Prop :=
  ∀ (t0 t1 t2 t3 m : Byte) (s a : State), CountLegal s → s.onTime.toNat ≤ s.params.framePeriod.toNat →
    s.params.onHoldMode = .clamp → accept (.render t0 t1 t2 t3 m) s = .next a →
    (1 ≤ s.onTime.toNat → waitSum a.expansion = s.ndig.toNat * s.params.framePeriod.toNat) ∧
    (s.onTime.toNat = 0 → waitSum a.expansion = s.ndig.toNat * (s.params.framePeriod.toNat + 1)) ∧
    s.ndig.toNat * s.params.framePeriod.toNat ≤ waitSum a.expansion ∧
    (1 ≤ s.params.framePeriod.toNat →
      maxPassesPerSecond s * (s.ndig.toNat * s.params.framePeriod.toNat : Nat) = 1000000 ∧
      ∀ passes micros : Nat, passes * waitSum a.expansion ≤ micros →
        (passes : Rat) * 1000000 ≤ maxPassesPerSecond s * (micros : Rat))

/-- R216: the events and the waits of the commands that are not RENDER, as their acceptance fixes them. SETBRT emits
no event and completes at acceptance (R120); that it leaves the idle sequencer's expansion alone is the model's choice
(log entry 2). -/
def Obligations.EventCountsOfCommands : Prop :=
  ∀ (s a : State),
    (∀ pol n d0 d1 d2 d3 data clk latch, accept (.init pol n d0 d1 d2 d3 data clk latch) s = .next a →
      a.expansion.length = 2 * n + 40 ∧ waitSum a.expansion = 0) ∧
    (∀ p, accept (.setbrt p) s = .next a → a.expansion = s.expansion ∧ a.busy = s.busy ∧ a.trace = s.trace) ∧
    (∀ b, accept (.shout b) s = .next a → a.expansion.length = 33 ∧ waitSum a.expansion = 0) ∧
    (∀ b, accept (.shwr b) s = .next a → a.expansion.length = 35 ∧ waitSum a.expansion = 0)

/-! ### Frames in every idle state -/

/-- R132, R133: what SHOUT and SHWR leave alone in every idle state with no RST coming, the serial lines driven or
not: every register but the clock and data levels (and for SHWR the latch level), the external register, the trace,
the sequencer's own registers and the count of free values; SHOUT leaves SR_OUT and the latch level alone too. Every
byte of the glyph ROM reads as before. That OP, UPC, the expansion and HOLD are at rest after the command is the
model's choice (log entry 2), and the count of free values is a field of State (log entry 7). -/
def Obligations.ShiftCommandsFrame : Prop :=
  ∀ (b : Byte) (s t : State), Ready s →
    (exec (.shout b) s = .next t →
      t = { s with
            lvl := { s.lvl with sclk := t.lvl.sclk, sdata := t.lvl.sdata }
            srShift := t.srShift, trace := s.trace ++ shiftOut b, draws := t.draws
            op := 0#4, upc := 0, expansion := [], hold := 0#16 } ∧
      ∀ a : Nat, t.mem.read a = s.mem.read a) ∧
    (exec (.shwr b) s = .next t →
      t = { s with
            lvl := { s.lvl with sclk := t.lvl.sclk, sdata := t.lvl.sdata, slatch := t.lvl.slatch }
            srShift := t.srShift, srOut := t.srOut, trace := s.trace ++ shiftWrite b, draws := t.draws
            op := 0#4, upc := 0, expansion := [], hold := 0#16 } ∧
      ∀ a : Nat, t.mem.read a = s.mem.read a)

/-- R150: what RENDER leaves alone in every idle state with no RST coming: the configuration and brightness registers,
the flags, OE, the levels of the digits at and beyond NDIG, the parameters, the host's inputs and every byte of the
glyph ROM. The model's choices: OP, UPC, the expansion and HOLD are at rest after the command (log entry 2), TEXT and
DPMASK keep what they latched (log entry 14), and the count of free values is a field of State (log entry 6). -/
def Obligations.RenderFrame : Prop :=
  ∀ (t0 t1 t2 t3 m : Byte) (s t : State), Ready s → exec (.render t0 t1 t2 t3 m) s = .next t →
    t = { s with
          text := { b0 := t0, b1 := t1, b2 := t2, b3 := t3 }
          dpmask := m
          lvl := t.lvl
          srShift := t.srShift, srOut := t.srOut, trace := t.trace, draws := t.draws
          op := 0#4, upc := 0, expansion := [], hold := 0#16 } ∧
    (∀ i : Fin 4, s.ndig.toNat ≤ i.val → t.lvl.get (digitRole i) = s.lvl.get (digitRole i)) ∧
    ∀ a : Nat, t.mem.read a = s.mem.read a

/-- R21, R22, R23, R28, R177: only INIT writes the configuration and level registers, only SETBRT the brightness
registers and BRT_VALID, only INIT sets CONFIGURED, and no command clears a flag. -/
def Obligations.RegistersHaveOneWriter : Prop :=
  ∀ (i : Instr) (s t : State), Ready s → exec i s = .next t →
    ((∀ pol n d0 d1 d2 d3 data clk latch, i ≠ .init pol n d0 d1 d2 d3 data clk latch) →
      t.pol = s.pol ∧ t.ndig = s.ndig ∧ t.digpin = s.digpin ∧ t.pinData = s.pinData ∧ t.pinClk = s.pinClk ∧
      t.pinLatch = s.pinLatch ∧ t.digitOn = s.digitOn ∧ t.digitOff = s.digitOff ∧ t.segOn = s.segOn ∧
      t.segOff = s.segOff ∧ t.configured = s.configured) ∧
    ((∀ p, i ≠ .setbrt p) → t.bright = s.bright ∧ t.onTime = s.onTime ∧ t.brtValid = s.brtValid) ∧
    (s.configured = true → t.configured = true) ∧ (s.brtValid = true → t.brtValid = true)

/-- R24, R106: no command turns a line back into an input, and INIT is the only one that enables a line. -/
def Obligations.OutputsStayEnabled : Prop :=
  ∀ (i : Instr) (s t : State), Ready s → exec i s = .next t →
    (∀ r, s.oe.get r = true → t.oe.get r = true) ∧
    ((∀ pol n d0 d1 d2 d3 data clk latch, i ≠ .init pol n d0 d1 d2 d3 data clk latch) → t.oe = s.oe)

/-- R36, second part, one command at a time: INIT, RENDER and the SHWR of ALL_OFF_BYTE leave the external register
blank whatever it held, and SETBRT does not touch it, so it keeps a blank register blank. -/
def Obligations.BlankRegisterIsRestored : Prop :=
  ∀ (s t : State), Ready s → (s.configured = true → SerialDriven s ∧ 1 ≤ s.ndig.toNat) →
    (∀ pol n d0 d1 d2 d3 data clk latch, exec (.init pol n d0 d1 d2 d3 data clk latch) s = .next t → Blank t) ∧
    (∀ t0 t1 t2 t3 m, exec (.render t0 t1 t2 t3 m) s = .next t → Blank t) ∧
    (exec (.shwr s.params.allOff) s = .next t → Blank t) ∧
    (∀ p, exec (.setbrt p) s = .next t → t.srShift = s.srShift ∧ t.srOut = s.srOut ∧ (Blank s → Blank t))

/-! ### Invariants -/

/-- R54: the glyph ROM is immutable: no step and no tick, a reset among them, changes a byte of it, so it keeps its
canonical form and two reads of a code return the same pattern; the parameters are as fixed, so what R7 and R53 ask of
them and of the table stays true. -/
def Obligations.GlyphRomIsImmutable : Prop :=
  ∀ (s t : State), (step s = .next t ∨ tick s = .next t) →
    t.mem = s.mem ∧ t.params = s.params ∧ (s.mem.wf = true → t.mem.wf = true) ∧
    (tableWf s.params s.mem = true → tableWf t.params t.mem = true) ∧
    ∀ a : Nat, t.mem.read a = s.mem.read a

/-- R23, R34: every step and every tick keeps the law that, with BRT_VALID = 1, BRIGHT is within 0 to 100 and ON_TIME
within 0 to FRAME_PERIOD. -/
def Obligations.StepKeepsBrightnessLegal : Prop :=
  ∀ (s t : State), BrightnessLegal s → (step s = .next t ∨ tick s = .next t) → BrightnessLegal t

/-- R36, R37, one event at a time: the coherence of the pins (idle and unconfigured, nothing driven; idle and
configured, quiescent; during a command, at most one digit conducts after every event to come and the end is
quiescent) is kept by every tick. That the idle sequencer's registers are at their reset values is the model's choice
(log entries 1 and 2). -/
def Obligations.TickKeepsPinsCoherent : Prop :=
  ∀ (s t : State), Coherent s → tick s = .next t → Coherent t

/-- R36, R37, one command at a time: every step keeps the coherence of the pins (with the model's choice of log
entries 1 and 2 for the idle sequencer's registers). -/
def Obligations.StepKeepsPinsCoherent : Prop :=
  ∀ (s t : State), Coherent s → step s = .next t → Coherent t

/-- R33: the machine after power-on is coherent, whatever its parameters, glyph table and external register (with the
model's choice of log entries 1 and 2 for OP and UPC); the default parameters and table meet R7 and R53 (their values
are PRESUMED, log entries 4 and 5). -/
def Obligations.PowerOnIsCoherent : Prop :=
  (∀ (params : Params) (mem : Memory) (a b : Byte), Coherent (State.powerOn params mem a b) ∧
    BrightnessLegal (State.powerOn params mem a b)) ∧
  Coherent State.reset ∧ BrightnessLegal State.reset ∧ tableWf State.reset.params State.reset.mem = true

/-- R37: in every reachable state, after every event, at most one digit conducts. -/
def Obligations.AtMostOneDigitEverConducts : Prop :=
  ∀ (s : State), Reachable s → AtMostOneConducts s

/-- R36, first part: in every reachable state with CONFIGURED = 1 and BUSY = 0 the pins are quiescent. -/
def Obligations.ConfiguredIdleEngineIsQuiescent : Prop :=
  ∀ (s : State), Reachable s → s.configured = true → s.busy = false → Quiescent s ∧ CountLegal s

/-- R35: in every reachable state with CONFIGURED = 1 or with an INIT in progress, DIGIT_OFF = NOT DIGIT_ON and
SEG_OFF = NOT SEG_ON. -/
def Obligations.LevelsAreInverses : Prop :=
  ∀ (s : State), Reachable s → (s.configured = true ∨ (s.busy = true ∧ s.op = 1#4)) →
    s.digitOff = (!s.digitOn) ∧ s.segOff = (!s.segOn)
end

