-- ==== Sys2Proof/Laws/State.lean ====
section
/-! SUPPORT. One lemma for each field and each named update of the state, true by unfolding, so that no later proof
unfolds a record update; and the same for the events, which change only OE, LVL, HOLD, the external register, the trace
and the count of free values. -/

namespace Sys2Proof.Machine

/-- The state with a command running at event `k` and no hold in progress: what `start` leaves, at every event. -/
def runningAt (op : BitVec 4) (es : List Event) (k : Nat) (s : State) : State :=
  { s with busy := true, op := op, upc := k, expansion := es, hold := 0#16 }

/-! ### `complete`: the end of a command -/

@[simp] theorem complete_params (s : State) : (complete s).params = s.params := rfl
@[simp] theorem complete_mem (s : State) : (complete s).mem = s.mem := rfl
@[simp] theorem complete_pol (s : State) : (complete s).pol = s.pol := rfl
@[simp] theorem complete_ndig (s : State) : (complete s).ndig = s.ndig := rfl
@[simp] theorem complete_digpin (s : State) : (complete s).digpin = s.digpin := rfl
@[simp] theorem complete_pinData (s : State) : (complete s).pinData = s.pinData := rfl
@[simp] theorem complete_pinClk (s : State) : (complete s).pinClk = s.pinClk := rfl
@[simp] theorem complete_pinLatch (s : State) : (complete s).pinLatch = s.pinLatch := rfl
@[simp] theorem complete_digitOn (s : State) : (complete s).digitOn = s.digitOn := rfl
@[simp] theorem complete_digitOff (s : State) : (complete s).digitOff = s.digitOff := rfl
@[simp] theorem complete_segOn (s : State) : (complete s).segOn = s.segOn := rfl
@[simp] theorem complete_segOff (s : State) : (complete s).segOff = s.segOff := rfl
@[simp] theorem complete_bright (s : State) : (complete s).bright = s.bright := rfl
@[simp] theorem complete_onTime (s : State) : (complete s).onTime = s.onTime := rfl
@[simp] theorem complete_oe (s : State) : (complete s).oe = s.oe := rfl
@[simp] theorem complete_lvl (s : State) : (complete s).lvl = s.lvl := rfl
@[simp] theorem complete_busy (s : State) : (complete s).busy = false := rfl
@[simp] theorem complete_op (s : State) : (complete s).op = 0#4 := rfl
@[simp] theorem complete_upc (s : State) : (complete s).upc = 0 := rfl
@[simp] theorem complete_expansion (s : State) : (complete s).expansion = [] := rfl
@[simp] theorem complete_text (s : State) : (complete s).text = s.text := rfl
@[simp] theorem complete_dpmask (s : State) : (complete s).dpmask = s.dpmask := rfl
@[simp] theorem complete_hold (s : State) : (complete s).hold = 0#16 := rfl
@[simp] theorem complete_configured (s : State) : (complete s).configured = configuredAfter s.op s.configured := rfl
@[simp] theorem complete_brtValid (s : State) : (complete s).brtValid = s.brtValid := rfl
@[simp] theorem complete_srShift (s : State) : (complete s).srShift = s.srShift := rfl
@[simp] theorem complete_srOut (s : State) : (complete s).srOut = s.srOut := rfl
@[simp] theorem complete_trace (s : State) : (complete s).trace = s.trace := rfl
@[simp] theorem complete_draws (s : State) : (complete s).draws = s.draws := rfl
@[simp] theorem complete_offered (s : State) : (complete s).offered = s.offered := rfl
@[simp] theorem complete_rstIn (s : State) : (complete s).rstIn = s.rstIn := rfl

/-! ### `start`: the acceptance of a command by the sequencer -/

@[simp] theorem start_params (op : BitVec 4) (es : List Event) (s : State) : (start op es s).params = s.params := rfl
@[simp] theorem start_mem (op : BitVec 4) (es : List Event) (s : State) : (start op es s).mem = s.mem := rfl
@[simp] theorem start_pol (op : BitVec 4) (es : List Event) (s : State) : (start op es s).pol = s.pol := rfl
@[simp] theorem start_ndig (op : BitVec 4) (es : List Event) (s : State) : (start op es s).ndig = s.ndig := rfl
@[simp] theorem start_digpin (op : BitVec 4) (es : List Event) (s : State) : (start op es s).digpin = s.digpin := rfl
@[simp] theorem start_pinData (op : BitVec 4) (es : List Event) (s : State) : (start op es s).pinData = s.pinData := rfl
@[simp] theorem start_pinClk (op : BitVec 4) (es : List Event) (s : State) : (start op es s).pinClk = s.pinClk := rfl
@[simp] theorem start_pinLatch (op : BitVec 4) (es : List Event) (s : State) : (start op es s).pinLatch = s.pinLatch := rfl
@[simp] theorem start_digitOn (op : BitVec 4) (es : List Event) (s : State) : (start op es s).digitOn = s.digitOn := rfl
@[simp] theorem start_digitOff (op : BitVec 4) (es : List Event) (s : State) : (start op es s).digitOff = s.digitOff := rfl
@[simp] theorem start_segOn (op : BitVec 4) (es : List Event) (s : State) : (start op es s).segOn = s.segOn := rfl
@[simp] theorem start_segOff (op : BitVec 4) (es : List Event) (s : State) : (start op es s).segOff = s.segOff := rfl
@[simp] theorem start_bright (op : BitVec 4) (es : List Event) (s : State) : (start op es s).bright = s.bright := rfl
@[simp] theorem start_onTime (op : BitVec 4) (es : List Event) (s : State) : (start op es s).onTime = s.onTime := rfl
@[simp] theorem start_oe (op : BitVec 4) (es : List Event) (s : State) : (start op es s).oe = s.oe := rfl
@[simp] theorem start_lvl (op : BitVec 4) (es : List Event) (s : State) : (start op es s).lvl = s.lvl := rfl
@[simp] theorem start_busy (op : BitVec 4) (es : List Event) (s : State) : (start op es s).busy = true := rfl
@[simp] theorem start_op (op : BitVec 4) (es : List Event) (s : State) : (start op es s).op = op := rfl
@[simp] theorem start_upc (op : BitVec 4) (es : List Event) (s : State) : (start op es s).upc = 0 := rfl
@[simp] theorem start_expansion (op : BitVec 4) (es : List Event) (s : State) : (start op es s).expansion = es := rfl
@[simp] theorem start_text (op : BitVec 4) (es : List Event) (s : State) : (start op es s).text = s.text := rfl
@[simp] theorem start_dpmask (op : BitVec 4) (es : List Event) (s : State) : (start op es s).dpmask = s.dpmask := rfl
@[simp] theorem start_hold (op : BitVec 4) (es : List Event) (s : State) : (start op es s).hold = 0#16 := rfl
@[simp] theorem start_configured (op : BitVec 4) (es : List Event) (s : State) : (start op es s).configured = s.configured := rfl
@[simp] theorem start_brtValid (op : BitVec 4) (es : List Event) (s : State) : (start op es s).brtValid = s.brtValid := rfl
@[simp] theorem start_srShift (op : BitVec 4) (es : List Event) (s : State) : (start op es s).srShift = s.srShift := rfl
@[simp] theorem start_srOut (op : BitVec 4) (es : List Event) (s : State) : (start op es s).srOut = s.srOut := rfl
@[simp] theorem start_trace (op : BitVec 4) (es : List Event) (s : State) : (start op es s).trace = s.trace := rfl
@[simp] theorem start_draws (op : BitVec 4) (es : List Event) (s : State) : (start op es s).draws = s.draws := rfl
@[simp] theorem start_offered (op : BitVec 4) (es : List Event) (s : State) : (start op es s).offered = s.offered := rfl
@[simp] theorem start_rstIn (op : BitVec 4) (es : List Event) (s : State) : (start op es s).rstIn = s.rstIn := rfl

/-! ### `runningAt`: a command in progress -/

@[simp] theorem runningAt_params (op : BitVec 4) (es : List Event) (k : Nat) (s : State) : (runningAt op es k s).params = s.params := rfl
@[simp] theorem runningAt_mem (op : BitVec 4) (es : List Event) (k : Nat) (s : State) : (runningAt op es k s).mem = s.mem := rfl
@[simp] theorem runningAt_pol (op : BitVec 4) (es : List Event) (k : Nat) (s : State) : (runningAt op es k s).pol = s.pol := rfl
@[simp] theorem runningAt_ndig (op : BitVec 4) (es : List Event) (k : Nat) (s : State) : (runningAt op es k s).ndig = s.ndig := rfl
@[simp] theorem runningAt_digpin (op : BitVec 4) (es : List Event) (k : Nat) (s : State) : (runningAt op es k s).digpin = s.digpin := rfl
@[simp] theorem runningAt_pinData (op : BitVec 4) (es : List Event) (k : Nat) (s : State) : (runningAt op es k s).pinData = s.pinData := rfl
@[simp] theorem runningAt_pinClk (op : BitVec 4) (es : List Event) (k : Nat) (s : State) : (runningAt op es k s).pinClk = s.pinClk := rfl
@[simp] theorem runningAt_pinLatch (op : BitVec 4) (es : List Event) (k : Nat) (s : State) : (runningAt op es k s).pinLatch = s.pinLatch := rfl
@[simp] theorem runningAt_digitOn (op : BitVec 4) (es : List Event) (k : Nat) (s : State) : (runningAt op es k s).digitOn = s.digitOn := rfl
@[simp] theorem runningAt_digitOff (op : BitVec 4) (es : List Event) (k : Nat) (s : State) : (runningAt op es k s).digitOff = s.digitOff := rfl
@[simp] theorem runningAt_segOn (op : BitVec 4) (es : List Event) (k : Nat) (s : State) : (runningAt op es k s).segOn = s.segOn := rfl
@[simp] theorem runningAt_segOff (op : BitVec 4) (es : List Event) (k : Nat) (s : State) : (runningAt op es k s).segOff = s.segOff := rfl
@[simp] theorem runningAt_bright (op : BitVec 4) (es : List Event) (k : Nat) (s : State) : (runningAt op es k s).bright = s.bright := rfl
@[simp] theorem runningAt_onTime (op : BitVec 4) (es : List Event) (k : Nat) (s : State) : (runningAt op es k s).onTime = s.onTime := rfl
@[simp] theorem runningAt_oe (op : BitVec 4) (es : List Event) (k : Nat) (s : State) : (runningAt op es k s).oe = s.oe := rfl
@[simp] theorem runningAt_lvl (op : BitVec 4) (es : List Event) (k : Nat) (s : State) : (runningAt op es k s).lvl = s.lvl := rfl
@[simp] theorem runningAt_busy (op : BitVec 4) (es : List Event) (k : Nat) (s : State) : (runningAt op es k s).busy = true := rfl
@[simp] theorem runningAt_op (op : BitVec 4) (es : List Event) (k : Nat) (s : State) : (runningAt op es k s).op = op := rfl
@[simp] theorem runningAt_upc (op : BitVec 4) (es : List Event) (k : Nat) (s : State) : (runningAt op es k s).upc = k := rfl
@[simp] theorem runningAt_expansion (op : BitVec 4) (es : List Event) (k : Nat) (s : State) : (runningAt op es k s).expansion = es := rfl
@[simp] theorem runningAt_text (op : BitVec 4) (es : List Event) (k : Nat) (s : State) : (runningAt op es k s).text = s.text := rfl
@[simp] theorem runningAt_dpmask (op : BitVec 4) (es : List Event) (k : Nat) (s : State) : (runningAt op es k s).dpmask = s.dpmask := rfl
@[simp] theorem runningAt_hold (op : BitVec 4) (es : List Event) (k : Nat) (s : State) : (runningAt op es k s).hold = 0#16 := rfl
@[simp] theorem runningAt_configured (op : BitVec 4) (es : List Event) (k : Nat) (s : State) : (runningAt op es k s).configured = s.configured := rfl
@[simp] theorem runningAt_brtValid (op : BitVec 4) (es : List Event) (k : Nat) (s : State) : (runningAt op es k s).brtValid = s.brtValid := rfl
@[simp] theorem runningAt_srShift (op : BitVec 4) (es : List Event) (k : Nat) (s : State) : (runningAt op es k s).srShift = s.srShift := rfl
@[simp] theorem runningAt_srOut (op : BitVec 4) (es : List Event) (k : Nat) (s : State) : (runningAt op es k s).srOut = s.srOut := rfl
@[simp] theorem runningAt_trace (op : BitVec 4) (es : List Event) (k : Nat) (s : State) : (runningAt op es k s).trace = s.trace := rfl
@[simp] theorem runningAt_draws (op : BitVec 4) (es : List Event) (k : Nat) (s : State) : (runningAt op es k s).draws = s.draws := rfl
@[simp] theorem runningAt_offered (op : BitVec 4) (es : List Event) (k : Nat) (s : State) : (runningAt op es k s).offered = s.offered := rfl
@[simp] theorem runningAt_rstIn (op : BitVec 4) (es : List Event) (k : Nat) (s : State) : (runningAt op es k s).rstIn = s.rstIn := rfl

/-! ### `endHold`: the end of a hold -/

@[simp] theorem endHold_params (s : State) : (endHold s).params = s.params := rfl
@[simp] theorem endHold_mem (s : State) : (endHold s).mem = s.mem := rfl
@[simp] theorem endHold_pol (s : State) : (endHold s).pol = s.pol := rfl
@[simp] theorem endHold_ndig (s : State) : (endHold s).ndig = s.ndig := rfl
@[simp] theorem endHold_digpin (s : State) : (endHold s).digpin = s.digpin := rfl
@[simp] theorem endHold_pinData (s : State) : (endHold s).pinData = s.pinData := rfl
@[simp] theorem endHold_pinClk (s : State) : (endHold s).pinClk = s.pinClk := rfl
@[simp] theorem endHold_pinLatch (s : State) : (endHold s).pinLatch = s.pinLatch := rfl
@[simp] theorem endHold_digitOn (s : State) : (endHold s).digitOn = s.digitOn := rfl
@[simp] theorem endHold_digitOff (s : State) : (endHold s).digitOff = s.digitOff := rfl
@[simp] theorem endHold_segOn (s : State) : (endHold s).segOn = s.segOn := rfl
@[simp] theorem endHold_segOff (s : State) : (endHold s).segOff = s.segOff := rfl
@[simp] theorem endHold_bright (s : State) : (endHold s).bright = s.bright := rfl
@[simp] theorem endHold_onTime (s : State) : (endHold s).onTime = s.onTime := rfl
@[simp] theorem endHold_oe (s : State) : (endHold s).oe = s.oe := rfl
@[simp] theorem endHold_lvl (s : State) : (endHold s).lvl = s.lvl := rfl
@[simp] theorem endHold_busy (s : State) : (endHold s).busy = s.busy := rfl
@[simp] theorem endHold_op (s : State) : (endHold s).op = s.op := rfl
@[simp] theorem endHold_upc (s : State) : (endHold s).upc = s.upc := rfl
@[simp] theorem endHold_expansion (s : State) : (endHold s).expansion = s.expansion := rfl
@[simp] theorem endHold_text (s : State) : (endHold s).text = s.text := rfl
@[simp] theorem endHold_dpmask (s : State) : (endHold s).dpmask = s.dpmask := rfl
@[simp] theorem endHold_hold (s : State) : (endHold s).hold = 0#16 := rfl
@[simp] theorem endHold_configured (s : State) : (endHold s).configured = s.configured := rfl
@[simp] theorem endHold_brtValid (s : State) : (endHold s).brtValid = s.brtValid := rfl
@[simp] theorem endHold_srShift (s : State) : (endHold s).srShift = s.srShift := rfl
@[simp] theorem endHold_srOut (s : State) : (endHold s).srOut = s.srOut := rfl
@[simp] theorem endHold_trace (s : State) : (endHold s).trace = s.trace := rfl
@[simp] theorem endHold_draws (s : State) : (endHold s).draws = s.draws := rfl
@[simp] theorem endHold_offered (s : State) : (endHold s).offered = s.offered := rfl
@[simp] theorem endHold_rstIn (s : State) : (endHold s).rstIn = s.rstIn := rfl

/-! ### `engineReset`: RST -/

@[simp] theorem engineReset_params (s : State) : (engineReset s).params = s.params := rfl
@[simp] theorem engineReset_mem (s : State) : (engineReset s).mem = s.mem := rfl
@[simp] theorem engineReset_pol (s : State) : (engineReset s).pol = .commonCathode := rfl
@[simp] theorem engineReset_ndig (s : State) : (engineReset s).ndig = 0#3 := rfl
@[simp] theorem engineReset_digpin (s : State) : (engineReset s).digpin = FourBytes.zero := rfl
@[simp] theorem engineReset_pinData (s : State) : (engineReset s).pinData = 0#8 := rfl
@[simp] theorem engineReset_pinClk (s : State) : (engineReset s).pinClk = 0#8 := rfl
@[simp] theorem engineReset_pinLatch (s : State) : (engineReset s).pinLatch = 0#8 := rfl
@[simp] theorem engineReset_digitOn (s : State) : (engineReset s).digitOn = false := rfl
@[simp] theorem engineReset_digitOff (s : State) : (engineReset s).digitOff = false := rfl
@[simp] theorem engineReset_segOn (s : State) : (engineReset s).segOn = false := rfl
@[simp] theorem engineReset_segOff (s : State) : (engineReset s).segOff = false := rfl
@[simp] theorem engineReset_bright (s : State) : (engineReset s).bright = 0#7 := rfl
@[simp] theorem engineReset_onTime (s : State) : (engineReset s).onTime = 0#16 := rfl
@[simp] theorem engineReset_oe (s : State) : (engineReset s).oe = RoleBits.zero := rfl
@[simp] theorem engineReset_lvl (s : State) : (engineReset s).lvl = RoleBits.zero := rfl
@[simp] theorem engineReset_busy (s : State) : (engineReset s).busy = false := rfl
@[simp] theorem engineReset_op (s : State) : (engineReset s).op = 0#4 := rfl
@[simp] theorem engineReset_upc (s : State) : (engineReset s).upc = 0 := rfl
@[simp] theorem engineReset_expansion (s : State) : (engineReset s).expansion = [] := rfl
@[simp] theorem engineReset_text (s : State) : (engineReset s).text = FourBytes.zero := rfl
@[simp] theorem engineReset_dpmask (s : State) : (engineReset s).dpmask = 0#8 := rfl
@[simp] theorem engineReset_hold (s : State) : (engineReset s).hold = 0#16 := rfl
@[simp] theorem engineReset_configured (s : State) : (engineReset s).configured = false := rfl
@[simp] theorem engineReset_brtValid (s : State) : (engineReset s).brtValid = false := rfl
@[simp] theorem engineReset_srShift (s : State) : (engineReset s).srShift = s.srShift := rfl
@[simp] theorem engineReset_srOut (s : State) : (engineReset s).srOut = s.srOut := rfl
@[simp] theorem engineReset_trace (s : State) : (engineReset s).trace = s.trace := rfl
@[simp] theorem engineReset_draws (s : State) : (engineReset s).draws = s.draws := rfl
@[simp] theorem engineReset_offered (s : State) : (engineReset s).offered = s.offered := rfl
@[simp] theorem engineReset_rstIn (s : State) : (engineReset s).rstIn = none := rfl

/-! ### `resetAfterRefusal`: RST in a refused run -/

@[simp] theorem resetAfterRefusal_params (s : State) : (resetAfterRefusal s).params = s.params := rfl
@[simp] theorem resetAfterRefusal_mem (s : State) : (resetAfterRefusal s).mem = s.mem := rfl
@[simp] theorem resetAfterRefusal_pol (s : State) : (resetAfterRefusal s).pol = .commonCathode := rfl
@[simp] theorem resetAfterRefusal_ndig (s : State) : (resetAfterRefusal s).ndig = 0#3 := rfl
@[simp] theorem resetAfterRefusal_digpin (s : State) : (resetAfterRefusal s).digpin = FourBytes.zero := rfl
@[simp] theorem resetAfterRefusal_pinData (s : State) : (resetAfterRefusal s).pinData = 0#8 := rfl
@[simp] theorem resetAfterRefusal_pinClk (s : State) : (resetAfterRefusal s).pinClk = 0#8 := rfl
@[simp] theorem resetAfterRefusal_pinLatch (s : State) : (resetAfterRefusal s).pinLatch = 0#8 := rfl
@[simp] theorem resetAfterRefusal_digitOn (s : State) : (resetAfterRefusal s).digitOn = false := rfl
@[simp] theorem resetAfterRefusal_digitOff (s : State) : (resetAfterRefusal s).digitOff = false := rfl
@[simp] theorem resetAfterRefusal_segOn (s : State) : (resetAfterRefusal s).segOn = false := rfl
@[simp] theorem resetAfterRefusal_segOff (s : State) : (resetAfterRefusal s).segOff = false := rfl
@[simp] theorem resetAfterRefusal_bright (s : State) : (resetAfterRefusal s).bright = 0#7 := rfl
@[simp] theorem resetAfterRefusal_onTime (s : State) : (resetAfterRefusal s).onTime = 0#16 := rfl
@[simp] theorem resetAfterRefusal_oe (s : State) : (resetAfterRefusal s).oe = RoleBits.zero := rfl
@[simp] theorem resetAfterRefusal_lvl (s : State) : (resetAfterRefusal s).lvl = RoleBits.zero := rfl
@[simp] theorem resetAfterRefusal_busy (s : State) : (resetAfterRefusal s).busy = false := rfl
@[simp] theorem resetAfterRefusal_op (s : State) : (resetAfterRefusal s).op = 0#4 := rfl
@[simp] theorem resetAfterRefusal_upc (s : State) : (resetAfterRefusal s).upc = 0 := rfl
@[simp] theorem resetAfterRefusal_expansion (s : State) : (resetAfterRefusal s).expansion = [] := rfl
@[simp] theorem resetAfterRefusal_text (s : State) : (resetAfterRefusal s).text = FourBytes.zero := rfl
@[simp] theorem resetAfterRefusal_dpmask (s : State) : (resetAfterRefusal s).dpmask = 0#8 := rfl
@[simp] theorem resetAfterRefusal_hold (s : State) : (resetAfterRefusal s).hold = 0#16 := rfl
@[simp] theorem resetAfterRefusal_configured (s : State) : (resetAfterRefusal s).configured = false := rfl
@[simp] theorem resetAfterRefusal_brtValid (s : State) : (resetAfterRefusal s).brtValid = false := rfl
@[simp] theorem resetAfterRefusal_srShift (s : State) : (resetAfterRefusal s).srShift = Config.strayByte s.draws := rfl
@[simp] theorem resetAfterRefusal_srOut (s : State) : (resetAfterRefusal s).srOut = Config.strayByte (s.draws + 1) := rfl
@[simp] theorem resetAfterRefusal_trace (s : State) : (resetAfterRefusal s).trace = s.trace := rfl
@[simp] theorem resetAfterRefusal_draws (s : State) : (resetAfterRefusal s).draws = s.draws + 2 := rfl
@[simp] theorem resetAfterRefusal_offered (s : State) : (resetAfterRefusal s).offered = s.offered := rfl
@[simp] theorem resetAfterRefusal_rstIn (s : State) : (resetAfterRefusal s).rstIn = none := rfl

/-! ### `setBrtValid`: the flag SETBRT sets -/

@[simp] theorem setBrtValid_params (s : State) : (setBrtValid s).params = s.params := rfl
@[simp] theorem setBrtValid_mem (s : State) : (setBrtValid s).mem = s.mem := rfl
@[simp] theorem setBrtValid_pol (s : State) : (setBrtValid s).pol = s.pol := rfl
@[simp] theorem setBrtValid_ndig (s : State) : (setBrtValid s).ndig = s.ndig := rfl
@[simp] theorem setBrtValid_digpin (s : State) : (setBrtValid s).digpin = s.digpin := rfl
@[simp] theorem setBrtValid_pinData (s : State) : (setBrtValid s).pinData = s.pinData := rfl
@[simp] theorem setBrtValid_pinClk (s : State) : (setBrtValid s).pinClk = s.pinClk := rfl
@[simp] theorem setBrtValid_pinLatch (s : State) : (setBrtValid s).pinLatch = s.pinLatch := rfl
@[simp] theorem setBrtValid_digitOn (s : State) : (setBrtValid s).digitOn = s.digitOn := rfl
@[simp] theorem setBrtValid_digitOff (s : State) : (setBrtValid s).digitOff = s.digitOff := rfl
@[simp] theorem setBrtValid_segOn (s : State) : (setBrtValid s).segOn = s.segOn := rfl
@[simp] theorem setBrtValid_segOff (s : State) : (setBrtValid s).segOff = s.segOff := rfl
@[simp] theorem setBrtValid_bright (s : State) : (setBrtValid s).bright = s.bright := rfl
@[simp] theorem setBrtValid_onTime (s : State) : (setBrtValid s).onTime = s.onTime := rfl
@[simp] theorem setBrtValid_oe (s : State) : (setBrtValid s).oe = s.oe := rfl
@[simp] theorem setBrtValid_lvl (s : State) : (setBrtValid s).lvl = s.lvl := rfl
@[simp] theorem setBrtValid_busy (s : State) : (setBrtValid s).busy = s.busy := rfl
@[simp] theorem setBrtValid_op (s : State) : (setBrtValid s).op = s.op := rfl
@[simp] theorem setBrtValid_upc (s : State) : (setBrtValid s).upc = s.upc := rfl
@[simp] theorem setBrtValid_expansion (s : State) : (setBrtValid s).expansion = s.expansion := rfl
@[simp] theorem setBrtValid_text (s : State) : (setBrtValid s).text = s.text := rfl
@[simp] theorem setBrtValid_dpmask (s : State) : (setBrtValid s).dpmask = s.dpmask := rfl
@[simp] theorem setBrtValid_hold (s : State) : (setBrtValid s).hold = s.hold := rfl
@[simp] theorem setBrtValid_configured (s : State) : (setBrtValid s).configured = s.configured := rfl
@[simp] theorem setBrtValid_brtValid (s : State) : (setBrtValid s).brtValid = true := rfl
@[simp] theorem setBrtValid_srShift (s : State) : (setBrtValid s).srShift = s.srShift := rfl
@[simp] theorem setBrtValid_srOut (s : State) : (setBrtValid s).srOut = s.srOut := rfl
@[simp] theorem setBrtValid_trace (s : State) : (setBrtValid s).trace = s.trace := rfl
@[simp] theorem setBrtValid_draws (s : State) : (setBrtValid s).draws = s.draws := rfl
@[simp] theorem setBrtValid_offered (s : State) : (setBrtValid s).offered = s.offered := rfl
@[simp] theorem setBrtValid_rstIn (s : State) : (setBrtValid s).rstIn = s.rstIn := rfl

/-! ### `consumeWord`: the port takes a word -/

@[simp] theorem consumeWord_params (s : State) : (consumeWord s).params = s.params := rfl
@[simp] theorem consumeWord_mem (s : State) : (consumeWord s).mem = s.mem := rfl
@[simp] theorem consumeWord_pol (s : State) : (consumeWord s).pol = s.pol := rfl
@[simp] theorem consumeWord_ndig (s : State) : (consumeWord s).ndig = s.ndig := rfl
@[simp] theorem consumeWord_digpin (s : State) : (consumeWord s).digpin = s.digpin := rfl
@[simp] theorem consumeWord_pinData (s : State) : (consumeWord s).pinData = s.pinData := rfl
@[simp] theorem consumeWord_pinClk (s : State) : (consumeWord s).pinClk = s.pinClk := rfl
@[simp] theorem consumeWord_pinLatch (s : State) : (consumeWord s).pinLatch = s.pinLatch := rfl
@[simp] theorem consumeWord_digitOn (s : State) : (consumeWord s).digitOn = s.digitOn := rfl
@[simp] theorem consumeWord_digitOff (s : State) : (consumeWord s).digitOff = s.digitOff := rfl
@[simp] theorem consumeWord_segOn (s : State) : (consumeWord s).segOn = s.segOn := rfl
@[simp] theorem consumeWord_segOff (s : State) : (consumeWord s).segOff = s.segOff := rfl
@[simp] theorem consumeWord_bright (s : State) : (consumeWord s).bright = s.bright := rfl
@[simp] theorem consumeWord_onTime (s : State) : (consumeWord s).onTime = s.onTime := rfl
@[simp] theorem consumeWord_oe (s : State) : (consumeWord s).oe = s.oe := rfl
@[simp] theorem consumeWord_lvl (s : State) : (consumeWord s).lvl = s.lvl := rfl
@[simp] theorem consumeWord_busy (s : State) : (consumeWord s).busy = s.busy := rfl
@[simp] theorem consumeWord_op (s : State) : (consumeWord s).op = s.op := rfl
@[simp] theorem consumeWord_upc (s : State) : (consumeWord s).upc = s.upc := rfl
@[simp] theorem consumeWord_expansion (s : State) : (consumeWord s).expansion = s.expansion := rfl
@[simp] theorem consumeWord_text (s : State) : (consumeWord s).text = s.text := rfl
@[simp] theorem consumeWord_dpmask (s : State) : (consumeWord s).dpmask = s.dpmask := rfl
@[simp] theorem consumeWord_hold (s : State) : (consumeWord s).hold = s.hold := rfl
@[simp] theorem consumeWord_configured (s : State) : (consumeWord s).configured = s.configured := rfl
@[simp] theorem consumeWord_brtValid (s : State) : (consumeWord s).brtValid = s.brtValid := rfl
@[simp] theorem consumeWord_srShift (s : State) : (consumeWord s).srShift = s.srShift := rfl
@[simp] theorem consumeWord_srOut (s : State) : (consumeWord s).srOut = s.srOut := rfl
@[simp] theorem consumeWord_trace (s : State) : (consumeWord s).trace = s.trace := rfl
@[simp] theorem consumeWord_draws (s : State) : (consumeWord s).draws = s.draws := rfl
@[simp] theorem consumeWord_offered (s : State) : (consumeWord s).offered = s.offered.tail := rfl
@[simp] theorem consumeWord_rstIn (s : State) : (consumeWord s).rstIn = s.rstIn := rfl

/-! ### `configure`: what INIT writes at acceptance -/

@[simp] theorem configure_params (pol : Polarity) (n : Nat) (d : FourBytes) (da ck la : Byte) (s : State) : (configure pol n d da ck la s).params = s.params := rfl
@[simp] theorem configure_mem (pol : Polarity) (n : Nat) (d : FourBytes) (da ck la : Byte) (s : State) : (configure pol n d da ck la s).mem = s.mem := rfl
@[simp] theorem configure_pol (pol : Polarity) (n : Nat) (d : FourBytes) (da ck la : Byte) (s : State) : (configure pol n d da ck la s).pol = pol := rfl
@[simp] theorem configure_ndig (pol : Polarity) (n : Nat) (d : FourBytes) (da ck la : Byte) (s : State) : (configure pol n d da ck la s).ndig = BitVec.ofNat 3 n := rfl
@[simp] theorem configure_digpin (pol : Polarity) (n : Nat) (d : FourBytes) (da ck la : Byte) (s : State) : (configure pol n d da ck la s).digpin = FourBytes.writeBelow n d s.digpin := rfl
@[simp] theorem configure_pinData (pol : Polarity) (n : Nat) (d : FourBytes) (da ck la : Byte) (s : State) : (configure pol n d da ck la s).pinData = da := rfl
@[simp] theorem configure_pinClk (pol : Polarity) (n : Nat) (d : FourBytes) (da ck la : Byte) (s : State) : (configure pol n d da ck la s).pinClk = ck := rfl
@[simp] theorem configure_pinLatch (pol : Polarity) (n : Nat) (d : FourBytes) (da ck la : Byte) (s : State) : (configure pol n d da ck la s).pinLatch = la := rfl
@[simp] theorem configure_digitOn (pol : Polarity) (n : Nat) (d : FourBytes) (da ck la : Byte) (s : State) : (configure pol n d da ck la s).digitOn = digitOnOf s.params.levels pol := rfl
@[simp] theorem configure_digitOff (pol : Polarity) (n : Nat) (d : FourBytes) (da ck la : Byte) (s : State) : (configure pol n d da ck la s).digitOff = !(digitOnOf s.params.levels pol) := rfl
@[simp] theorem configure_segOn (pol : Polarity) (n : Nat) (d : FourBytes) (da ck la : Byte) (s : State) : (configure pol n d da ck la s).segOn = segOnOf s.params.levels pol := rfl
@[simp] theorem configure_segOff (pol : Polarity) (n : Nat) (d : FourBytes) (da ck la : Byte) (s : State) : (configure pol n d da ck la s).segOff = !(segOnOf s.params.levels pol) := rfl
@[simp] theorem configure_bright (pol : Polarity) (n : Nat) (d : FourBytes) (da ck la : Byte) (s : State) : (configure pol n d da ck la s).bright = s.bright := rfl
@[simp] theorem configure_onTime (pol : Polarity) (n : Nat) (d : FourBytes) (da ck la : Byte) (s : State) : (configure pol n d da ck la s).onTime = s.onTime := rfl
@[simp] theorem configure_oe (pol : Polarity) (n : Nat) (d : FourBytes) (da ck la : Byte) (s : State) : (configure pol n d da ck la s).oe = s.oe := rfl
@[simp] theorem configure_lvl (pol : Polarity) (n : Nat) (d : FourBytes) (da ck la : Byte) (s : State) : (configure pol n d da ck la s).lvl = s.lvl := rfl
@[simp] theorem configure_busy (pol : Polarity) (n : Nat) (d : FourBytes) (da ck la : Byte) (s : State) : (configure pol n d da ck la s).busy = s.busy := rfl
@[simp] theorem configure_op (pol : Polarity) (n : Nat) (d : FourBytes) (da ck la : Byte) (s : State) : (configure pol n d da ck la s).op = s.op := rfl
@[simp] theorem configure_upc (pol : Polarity) (n : Nat) (d : FourBytes) (da ck la : Byte) (s : State) : (configure pol n d da ck la s).upc = s.upc := rfl
@[simp] theorem configure_expansion (pol : Polarity) (n : Nat) (d : FourBytes) (da ck la : Byte) (s : State) : (configure pol n d da ck la s).expansion = s.expansion := rfl
@[simp] theorem configure_text (pol : Polarity) (n : Nat) (d : FourBytes) (da ck la : Byte) (s : State) : (configure pol n d da ck la s).text = s.text := rfl
@[simp] theorem configure_dpmask (pol : Polarity) (n : Nat) (d : FourBytes) (da ck la : Byte) (s : State) : (configure pol n d da ck la s).dpmask = s.dpmask := rfl
@[simp] theorem configure_hold (pol : Polarity) (n : Nat) (d : FourBytes) (da ck la : Byte) (s : State) : (configure pol n d da ck la s).hold = s.hold := rfl
@[simp] theorem configure_configured (pol : Polarity) (n : Nat) (d : FourBytes) (da ck la : Byte) (s : State) : (configure pol n d da ck la s).configured = s.configured := rfl
@[simp] theorem configure_brtValid (pol : Polarity) (n : Nat) (d : FourBytes) (da ck la : Byte) (s : State) : (configure pol n d da ck la s).brtValid = s.brtValid := rfl
@[simp] theorem configure_srShift (pol : Polarity) (n : Nat) (d : FourBytes) (da ck la : Byte) (s : State) : (configure pol n d da ck la s).srShift = s.srShift := rfl
@[simp] theorem configure_srOut (pol : Polarity) (n : Nat) (d : FourBytes) (da ck la : Byte) (s : State) : (configure pol n d da ck la s).srOut = s.srOut := rfl
@[simp] theorem configure_trace (pol : Polarity) (n : Nat) (d : FourBytes) (da ck la : Byte) (s : State) : (configure pol n d da ck la s).trace = s.trace := rfl
@[simp] theorem configure_draws (pol : Polarity) (n : Nat) (d : FourBytes) (da ck la : Byte) (s : State) : (configure pol n d da ck la s).draws = s.draws := rfl
@[simp] theorem configure_offered (pol : Polarity) (n : Nat) (d : FourBytes) (da ck la : Byte) (s : State) : (configure pol n d da ck la s).offered = s.offered := rfl
@[simp] theorem configure_rstIn (pol : Polarity) (n : Nat) (d : FourBytes) (da ck la : Byte) (s : State) : (configure pol n d da ck la s).rstIn = s.rstIn := rfl

/-! ### `latchText`: what RENDER writes at acceptance -/

@[simp] theorem latchText_params (text : FourBytes) (m : Byte) (s : State) : (latchText text m s).params = s.params := rfl
@[simp] theorem latchText_mem (text : FourBytes) (m : Byte) (s : State) : (latchText text m s).mem = s.mem := rfl
@[simp] theorem latchText_pol (text : FourBytes) (m : Byte) (s : State) : (latchText text m s).pol = s.pol := rfl
@[simp] theorem latchText_ndig (text : FourBytes) (m : Byte) (s : State) : (latchText text m s).ndig = s.ndig := rfl
@[simp] theorem latchText_digpin (text : FourBytes) (m : Byte) (s : State) : (latchText text m s).digpin = s.digpin := rfl
@[simp] theorem latchText_pinData (text : FourBytes) (m : Byte) (s : State) : (latchText text m s).pinData = s.pinData := rfl
@[simp] theorem latchText_pinClk (text : FourBytes) (m : Byte) (s : State) : (latchText text m s).pinClk = s.pinClk := rfl
@[simp] theorem latchText_pinLatch (text : FourBytes) (m : Byte) (s : State) : (latchText text m s).pinLatch = s.pinLatch := rfl
@[simp] theorem latchText_digitOn (text : FourBytes) (m : Byte) (s : State) : (latchText text m s).digitOn = s.digitOn := rfl
@[simp] theorem latchText_digitOff (text : FourBytes) (m : Byte) (s : State) : (latchText text m s).digitOff = s.digitOff := rfl
@[simp] theorem latchText_segOn (text : FourBytes) (m : Byte) (s : State) : (latchText text m s).segOn = s.segOn := rfl
@[simp] theorem latchText_segOff (text : FourBytes) (m : Byte) (s : State) : (latchText text m s).segOff = s.segOff := rfl
@[simp] theorem latchText_bright (text : FourBytes) (m : Byte) (s : State) : (latchText text m s).bright = s.bright := rfl
@[simp] theorem latchText_onTime (text : FourBytes) (m : Byte) (s : State) : (latchText text m s).onTime = s.onTime := rfl
@[simp] theorem latchText_oe (text : FourBytes) (m : Byte) (s : State) : (latchText text m s).oe = s.oe := rfl
@[simp] theorem latchText_lvl (text : FourBytes) (m : Byte) (s : State) : (latchText text m s).lvl = s.lvl := rfl
@[simp] theorem latchText_busy (text : FourBytes) (m : Byte) (s : State) : (latchText text m s).busy = s.busy := rfl
@[simp] theorem latchText_op (text : FourBytes) (m : Byte) (s : State) : (latchText text m s).op = s.op := rfl
@[simp] theorem latchText_upc (text : FourBytes) (m : Byte) (s : State) : (latchText text m s).upc = s.upc := rfl
@[simp] theorem latchText_expansion (text : FourBytes) (m : Byte) (s : State) : (latchText text m s).expansion = s.expansion := rfl
@[simp] theorem latchText_text (text : FourBytes) (m : Byte) (s : State) : (latchText text m s).text = text := rfl
@[simp] theorem latchText_dpmask (text : FourBytes) (m : Byte) (s : State) : (latchText text m s).dpmask = m := rfl
@[simp] theorem latchText_hold (text : FourBytes) (m : Byte) (s : State) : (latchText text m s).hold = s.hold := rfl
@[simp] theorem latchText_configured (text : FourBytes) (m : Byte) (s : State) : (latchText text m s).configured = s.configured := rfl
@[simp] theorem latchText_brtValid (text : FourBytes) (m : Byte) (s : State) : (latchText text m s).brtValid = s.brtValid := rfl
@[simp] theorem latchText_srShift (text : FourBytes) (m : Byte) (s : State) : (latchText text m s).srShift = s.srShift := rfl
@[simp] theorem latchText_srOut (text : FourBytes) (m : Byte) (s : State) : (latchText text m s).srOut = s.srOut := rfl
@[simp] theorem latchText_trace (text : FourBytes) (m : Byte) (s : State) : (latchText text m s).trace = s.trace := rfl
@[simp] theorem latchText_draws (text : FourBytes) (m : Byte) (s : State) : (latchText text m s).draws = s.draws + renderDraws s text := rfl
@[simp] theorem latchText_offered (text : FourBytes) (m : Byte) (s : State) : (latchText text m s).offered = s.offered := rfl
@[simp] theorem latchText_rstIn (text : FourBytes) (m : Byte) (s : State) : (latchText text m s).rstIn = s.rstIn := rfl

/-! ### `onClockRise`: a rising clock edge -/

@[simp] theorem onClockRise_params (s : State) : (onClockRise s).params = s.params := rfl
@[simp] theorem onClockRise_mem (s : State) : (onClockRise s).mem = s.mem := rfl
@[simp] theorem onClockRise_pol (s : State) : (onClockRise s).pol = s.pol := rfl
@[simp] theorem onClockRise_ndig (s : State) : (onClockRise s).ndig = s.ndig := rfl
@[simp] theorem onClockRise_digpin (s : State) : (onClockRise s).digpin = s.digpin := rfl
@[simp] theorem onClockRise_pinData (s : State) : (onClockRise s).pinData = s.pinData := rfl
@[simp] theorem onClockRise_pinClk (s : State) : (onClockRise s).pinClk = s.pinClk := rfl
@[simp] theorem onClockRise_pinLatch (s : State) : (onClockRise s).pinLatch = s.pinLatch := rfl
@[simp] theorem onClockRise_digitOn (s : State) : (onClockRise s).digitOn = s.digitOn := rfl
@[simp] theorem onClockRise_digitOff (s : State) : (onClockRise s).digitOff = s.digitOff := rfl
@[simp] theorem onClockRise_segOn (s : State) : (onClockRise s).segOn = s.segOn := rfl
@[simp] theorem onClockRise_segOff (s : State) : (onClockRise s).segOff = s.segOff := rfl
@[simp] theorem onClockRise_bright (s : State) : (onClockRise s).bright = s.bright := rfl
@[simp] theorem onClockRise_onTime (s : State) : (onClockRise s).onTime = s.onTime := rfl
@[simp] theorem onClockRise_oe (s : State) : (onClockRise s).oe = s.oe := rfl
@[simp] theorem onClockRise_lvl (s : State) : (onClockRise s).lvl = s.lvl := rfl
@[simp] theorem onClockRise_busy (s : State) : (onClockRise s).busy = s.busy := rfl
@[simp] theorem onClockRise_op (s : State) : (onClockRise s).op = s.op := rfl
@[simp] theorem onClockRise_upc (s : State) : (onClockRise s).upc = s.upc := rfl
@[simp] theorem onClockRise_expansion (s : State) : (onClockRise s).expansion = s.expansion := rfl
@[simp] theorem onClockRise_text (s : State) : (onClockRise s).text = s.text := rfl
@[simp] theorem onClockRise_dpmask (s : State) : (onClockRise s).dpmask = s.dpmask := rfl
@[simp] theorem onClockRise_hold (s : State) : (onClockRise s).hold = s.hold := rfl
@[simp] theorem onClockRise_configured (s : State) : (onClockRise s).configured = s.configured := rfl
@[simp] theorem onClockRise_brtValid (s : State) : (onClockRise s).brtValid = s.brtValid := rfl
@[simp] theorem onClockRise_srShift (s : State) : (onClockRise s).srShift = shiftIn s.srShift (sampledBit s) := rfl
@[simp] theorem onClockRise_srOut (s : State) : (onClockRise s).srOut = s.srOut := rfl
@[simp] theorem onClockRise_trace (s : State) : (onClockRise s).trace = s.trace := rfl
@[simp] theorem onClockRise_draws (s : State) : (onClockRise s).draws = if s.oe.sdata then s.draws else s.draws + 1 := rfl
@[simp] theorem onClockRise_offered (s : State) : (onClockRise s).offered = s.offered := rfl
@[simp] theorem onClockRise_rstIn (s : State) : (onClockRise s).rstIn = s.rstIn := rfl

/-! ### `onLatchRise`: a rising latch edge -/

@[simp] theorem onLatchRise_params (s : State) : (onLatchRise s).params = s.params := rfl
@[simp] theorem onLatchRise_mem (s : State) : (onLatchRise s).mem = s.mem := rfl
@[simp] theorem onLatchRise_pol (s : State) : (onLatchRise s).pol = s.pol := rfl
@[simp] theorem onLatchRise_ndig (s : State) : (onLatchRise s).ndig = s.ndig := rfl
@[simp] theorem onLatchRise_digpin (s : State) : (onLatchRise s).digpin = s.digpin := rfl
@[simp] theorem onLatchRise_pinData (s : State) : (onLatchRise s).pinData = s.pinData := rfl
@[simp] theorem onLatchRise_pinClk (s : State) : (onLatchRise s).pinClk = s.pinClk := rfl
@[simp] theorem onLatchRise_pinLatch (s : State) : (onLatchRise s).pinLatch = s.pinLatch := rfl
@[simp] theorem onLatchRise_digitOn (s : State) : (onLatchRise s).digitOn = s.digitOn := rfl
@[simp] theorem onLatchRise_digitOff (s : State) : (onLatchRise s).digitOff = s.digitOff := rfl
@[simp] theorem onLatchRise_segOn (s : State) : (onLatchRise s).segOn = s.segOn := rfl
@[simp] theorem onLatchRise_segOff (s : State) : (onLatchRise s).segOff = s.segOff := rfl
@[simp] theorem onLatchRise_bright (s : State) : (onLatchRise s).bright = s.bright := rfl
@[simp] theorem onLatchRise_onTime (s : State) : (onLatchRise s).onTime = s.onTime := rfl
@[simp] theorem onLatchRise_oe (s : State) : (onLatchRise s).oe = s.oe := rfl
@[simp] theorem onLatchRise_lvl (s : State) : (onLatchRise s).lvl = s.lvl := rfl
@[simp] theorem onLatchRise_busy (s : State) : (onLatchRise s).busy = s.busy := rfl
@[simp] theorem onLatchRise_op (s : State) : (onLatchRise s).op = s.op := rfl
@[simp] theorem onLatchRise_upc (s : State) : (onLatchRise s).upc = s.upc := rfl
@[simp] theorem onLatchRise_expansion (s : State) : (onLatchRise s).expansion = s.expansion := rfl
@[simp] theorem onLatchRise_text (s : State) : (onLatchRise s).text = s.text := rfl
@[simp] theorem onLatchRise_dpmask (s : State) : (onLatchRise s).dpmask = s.dpmask := rfl
@[simp] theorem onLatchRise_hold (s : State) : (onLatchRise s).hold = s.hold := rfl
@[simp] theorem onLatchRise_configured (s : State) : (onLatchRise s).configured = s.configured := rfl
@[simp] theorem onLatchRise_brtValid (s : State) : (onLatchRise s).brtValid = s.brtValid := rfl
@[simp] theorem onLatchRise_srShift (s : State) : (onLatchRise s).srShift = s.srShift := rfl
@[simp] theorem onLatchRise_srOut (s : State) : (onLatchRise s).srOut = s.srShift := rfl
@[simp] theorem onLatchRise_trace (s : State) : (onLatchRise s).trace = s.trace := rfl
@[simp] theorem onLatchRise_draws (s : State) : (onLatchRise s).draws = s.draws := rfl
@[simp] theorem onLatchRise_offered (s : State) : (onLatchRise s).offered = s.offered := rfl
@[simp] theorem onLatchRise_rstIn (s : State) : (onLatchRise s).rstIn = s.rstIn := rfl

/-! ### `pinDir`: a pin becomes an output -/

@[simp] theorem pinDir_params (r : Role) (s : State) : (pinDir r s).params = s.params := rfl
@[simp] theorem pinDir_mem (r : Role) (s : State) : (pinDir r s).mem = s.mem := rfl
@[simp] theorem pinDir_pol (r : Role) (s : State) : (pinDir r s).pol = s.pol := rfl
@[simp] theorem pinDir_ndig (r : Role) (s : State) : (pinDir r s).ndig = s.ndig := rfl
@[simp] theorem pinDir_digpin (r : Role) (s : State) : (pinDir r s).digpin = s.digpin := rfl
@[simp] theorem pinDir_pinData (r : Role) (s : State) : (pinDir r s).pinData = s.pinData := rfl
@[simp] theorem pinDir_pinClk (r : Role) (s : State) : (pinDir r s).pinClk = s.pinClk := rfl
@[simp] theorem pinDir_pinLatch (r : Role) (s : State) : (pinDir r s).pinLatch = s.pinLatch := rfl
@[simp] theorem pinDir_digitOn (r : Role) (s : State) : (pinDir r s).digitOn = s.digitOn := rfl
@[simp] theorem pinDir_digitOff (r : Role) (s : State) : (pinDir r s).digitOff = s.digitOff := rfl
@[simp] theorem pinDir_segOn (r : Role) (s : State) : (pinDir r s).segOn = s.segOn := rfl
@[simp] theorem pinDir_segOff (r : Role) (s : State) : (pinDir r s).segOff = s.segOff := rfl
@[simp] theorem pinDir_bright (r : Role) (s : State) : (pinDir r s).bright = s.bright := rfl
@[simp] theorem pinDir_onTime (r : Role) (s : State) : (pinDir r s).onTime = s.onTime := rfl
@[simp] theorem pinDir_oe (r : Role) (s : State) : (pinDir r s).oe = s.oe.set r true := rfl
@[simp] theorem pinDir_lvl (r : Role) (s : State) : (pinDir r s).lvl = s.lvl := rfl
@[simp] theorem pinDir_busy (r : Role) (s : State) : (pinDir r s).busy = s.busy := rfl
@[simp] theorem pinDir_op (r : Role) (s : State) : (pinDir r s).op = s.op := rfl
@[simp] theorem pinDir_upc (r : Role) (s : State) : (pinDir r s).upc = s.upc := rfl
@[simp] theorem pinDir_expansion (r : Role) (s : State) : (pinDir r s).expansion = s.expansion := rfl
@[simp] theorem pinDir_text (r : Role) (s : State) : (pinDir r s).text = s.text := rfl
@[simp] theorem pinDir_dpmask (r : Role) (s : State) : (pinDir r s).dpmask = s.dpmask := rfl
@[simp] theorem pinDir_hold (r : Role) (s : State) : (pinDir r s).hold = s.hold := rfl
@[simp] theorem pinDir_configured (r : Role) (s : State) : (pinDir r s).configured = s.configured := rfl
@[simp] theorem pinDir_brtValid (r : Role) (s : State) : (pinDir r s).brtValid = s.brtValid := rfl
@[simp] theorem pinDir_srShift (r : Role) (s : State) : (pinDir r s).srShift = s.srShift := rfl
@[simp] theorem pinDir_srOut (r : Role) (s : State) : (pinDir r s).srOut = s.srOut := rfl
@[simp] theorem pinDir_trace (r : Role) (s : State) : (pinDir r s).trace = s.trace := rfl
@[simp] theorem pinDir_draws (r : Role) (s : State) : (pinDir r s).draws = s.draws := rfl
@[simp] theorem pinDir_offered (r : Role) (s : State) : (pinDir r s).offered = s.offered := rfl
@[simp] theorem pinDir_rstIn (r : Role) (s : State) : (pinDir r s).rstIn = s.rstIn := rfl

/-! ### The register's reaction, and the events -/

@[simp] theorem registerReaction_params (r : Role) (l : Bool) (s : State) :
    (registerReaction r l s).params = s.params := by
  cases r <;> simp only [registerReaction] <;> split <;> rfl
@[simp] theorem registerReaction_mem (r : Role) (l : Bool) (s : State) :
    (registerReaction r l s).mem = s.mem := by
  cases r <;> simp only [registerReaction] <;> split <;> rfl
@[simp] theorem registerReaction_pol (r : Role) (l : Bool) (s : State) :
    (registerReaction r l s).pol = s.pol := by
  cases r <;> simp only [registerReaction] <;> split <;> rfl
@[simp] theorem registerReaction_ndig (r : Role) (l : Bool) (s : State) :
    (registerReaction r l s).ndig = s.ndig := by
  cases r <;> simp only [registerReaction] <;> split <;> rfl
@[simp] theorem registerReaction_digpin (r : Role) (l : Bool) (s : State) :
    (registerReaction r l s).digpin = s.digpin := by
  cases r <;> simp only [registerReaction] <;> split <;> rfl
@[simp] theorem registerReaction_pinData (r : Role) (l : Bool) (s : State) :
    (registerReaction r l s).pinData = s.pinData := by
  cases r <;> simp only [registerReaction] <;> split <;> rfl
@[simp] theorem registerReaction_pinClk (r : Role) (l : Bool) (s : State) :
    (registerReaction r l s).pinClk = s.pinClk := by
  cases r <;> simp only [registerReaction] <;> split <;> rfl
@[simp] theorem registerReaction_pinLatch (r : Role) (l : Bool) (s : State) :
    (registerReaction r l s).pinLatch = s.pinLatch := by
  cases r <;> simp only [registerReaction] <;> split <;> rfl
@[simp] theorem registerReaction_digitOn (r : Role) (l : Bool) (s : State) :
    (registerReaction r l s).digitOn = s.digitOn := by
  cases r <;> simp only [registerReaction] <;> split <;> rfl
@[simp] theorem registerReaction_digitOff (r : Role) (l : Bool) (s : State) :
    (registerReaction r l s).digitOff = s.digitOff := by
  cases r <;> simp only [registerReaction] <;> split <;> rfl
@[simp] theorem registerReaction_segOn (r : Role) (l : Bool) (s : State) :
    (registerReaction r l s).segOn = s.segOn := by
  cases r <;> simp only [registerReaction] <;> split <;> rfl
@[simp] theorem registerReaction_segOff (r : Role) (l : Bool) (s : State) :
    (registerReaction r l s).segOff = s.segOff := by
  cases r <;> simp only [registerReaction] <;> split <;> rfl
@[simp] theorem registerReaction_bright (r : Role) (l : Bool) (s : State) :
    (registerReaction r l s).bright = s.bright := by
  cases r <;> simp only [registerReaction] <;> split <;> rfl
@[simp] theorem registerReaction_onTime (r : Role) (l : Bool) (s : State) :
    (registerReaction r l s).onTime = s.onTime := by
  cases r <;> simp only [registerReaction] <;> split <;> rfl
@[simp] theorem registerReaction_oe (r : Role) (l : Bool) (s : State) :
    (registerReaction r l s).oe = s.oe := by
  cases r <;> simp only [registerReaction] <;> split <;> rfl
@[simp] theorem registerReaction_lvl (r : Role) (l : Bool) (s : State) :
    (registerReaction r l s).lvl = s.lvl := by
  cases r <;> simp only [registerReaction] <;> split <;> rfl
@[simp] theorem registerReaction_busy (r : Role) (l : Bool) (s : State) :
    (registerReaction r l s).busy = s.busy := by
  cases r <;> simp only [registerReaction] <;> split <;> rfl
@[simp] theorem registerReaction_op (r : Role) (l : Bool) (s : State) :
    (registerReaction r l s).op = s.op := by
  cases r <;> simp only [registerReaction] <;> split <;> rfl
@[simp] theorem registerReaction_upc (r : Role) (l : Bool) (s : State) :
    (registerReaction r l s).upc = s.upc := by
  cases r <;> simp only [registerReaction] <;> split <;> rfl
@[simp] theorem registerReaction_expansion (r : Role) (l : Bool) (s : State) :
    (registerReaction r l s).expansion = s.expansion := by
  cases r <;> simp only [registerReaction] <;> split <;> rfl
@[simp] theorem registerReaction_text (r : Role) (l : Bool) (s : State) :
    (registerReaction r l s).text = s.text := by
  cases r <;> simp only [registerReaction] <;> split <;> rfl
@[simp] theorem registerReaction_dpmask (r : Role) (l : Bool) (s : State) :
    (registerReaction r l s).dpmask = s.dpmask := by
  cases r <;> simp only [registerReaction] <;> split <;> rfl
@[simp] theorem registerReaction_hold (r : Role) (l : Bool) (s : State) :
    (registerReaction r l s).hold = s.hold := by
  cases r <;> simp only [registerReaction] <;> split <;> rfl
@[simp] theorem registerReaction_configured (r : Role) (l : Bool) (s : State) :
    (registerReaction r l s).configured = s.configured := by
  cases r <;> simp only [registerReaction] <;> split <;> rfl
@[simp] theorem registerReaction_brtValid (r : Role) (l : Bool) (s : State) :
    (registerReaction r l s).brtValid = s.brtValid := by
  cases r <;> simp only [registerReaction] <;> split <;> rfl
@[simp] theorem registerReaction_trace (r : Role) (l : Bool) (s : State) :
    (registerReaction r l s).trace = s.trace := by
  cases r <;> simp only [registerReaction] <;> split <;> rfl
@[simp] theorem registerReaction_offered (r : Role) (l : Bool) (s : State) :
    (registerReaction r l s).offered = s.offered := by
  cases r <;> simp only [registerReaction] <;> split <;> rfl
@[simp] theorem registerReaction_rstIn (r : Role) (l : Bool) (s : State) :
    (registerReaction r l s).rstIn = s.rstIn := by
  cases r <;> simp only [registerReaction] <;> split <;> rfl

@[simp] theorem emit_params (e : Event) (s : State) : (emit e s).params = s.params := by
  cases e <;> simp [emit, applyEvent, pinLevel, pinDir]
@[simp] theorem emit_mem (e : Event) (s : State) : (emit e s).mem = s.mem := by
  cases e <;> simp [emit, applyEvent, pinLevel, pinDir]
@[simp] theorem emit_pol (e : Event) (s : State) : (emit e s).pol = s.pol := by
  cases e <;> simp [emit, applyEvent, pinLevel, pinDir]
@[simp] theorem emit_ndig (e : Event) (s : State) : (emit e s).ndig = s.ndig := by
  cases e <;> simp [emit, applyEvent, pinLevel, pinDir]
@[simp] theorem emit_digpin (e : Event) (s : State) : (emit e s).digpin = s.digpin := by
  cases e <;> simp [emit, applyEvent, pinLevel, pinDir]
@[simp] theorem emit_pinData (e : Event) (s : State) : (emit e s).pinData = s.pinData := by
  cases e <;> simp [emit, applyEvent, pinLevel, pinDir]
@[simp] theorem emit_pinClk (e : Event) (s : State) : (emit e s).pinClk = s.pinClk := by
  cases e <;> simp [emit, applyEvent, pinLevel, pinDir]
@[simp] theorem emit_pinLatch (e : Event) (s : State) : (emit e s).pinLatch = s.pinLatch := by
  cases e <;> simp [emit, applyEvent, pinLevel, pinDir]
@[simp] theorem emit_digitOn (e : Event) (s : State) : (emit e s).digitOn = s.digitOn := by
  cases e <;> simp [emit, applyEvent, pinLevel, pinDir]
@[simp] theorem emit_digitOff (e : Event) (s : State) : (emit e s).digitOff = s.digitOff := by
  cases e <;> simp [emit, applyEvent, pinLevel, pinDir]
@[simp] theorem emit_segOn (e : Event) (s : State) : (emit e s).segOn = s.segOn := by
  cases e <;> simp [emit, applyEvent, pinLevel, pinDir]
@[simp] theorem emit_segOff (e : Event) (s : State) : (emit e s).segOff = s.segOff := by
  cases e <;> simp [emit, applyEvent, pinLevel, pinDir]
@[simp] theorem emit_bright (e : Event) (s : State) : (emit e s).bright = s.bright := by
  cases e <;> simp [emit, applyEvent, pinLevel, pinDir]
@[simp] theorem emit_onTime (e : Event) (s : State) : (emit e s).onTime = s.onTime := by
  cases e <;> simp [emit, applyEvent, pinLevel, pinDir]
@[simp] theorem emit_busy (e : Event) (s : State) : (emit e s).busy = s.busy := by
  cases e <;> simp [emit, applyEvent, pinLevel, pinDir]
@[simp] theorem emit_op (e : Event) (s : State) : (emit e s).op = s.op := by
  cases e <;> simp [emit, applyEvent, pinLevel, pinDir]
@[simp] theorem emit_upc (e : Event) (s : State) : (emit e s).upc = s.upc := by
  cases e <;> simp [emit, applyEvent, pinLevel, pinDir]
@[simp] theorem emit_expansion (e : Event) (s : State) : (emit e s).expansion = s.expansion := by
  cases e <;> simp [emit, applyEvent, pinLevel, pinDir]
@[simp] theorem emit_text (e : Event) (s : State) : (emit e s).text = s.text := by
  cases e <;> simp [emit, applyEvent, pinLevel, pinDir]
@[simp] theorem emit_dpmask (e : Event) (s : State) : (emit e s).dpmask = s.dpmask := by
  cases e <;> simp [emit, applyEvent, pinLevel, pinDir]
@[simp] theorem emit_configured (e : Event) (s : State) : (emit e s).configured = s.configured := by
  cases e <;> simp [emit, applyEvent, pinLevel, pinDir]
@[simp] theorem emit_brtValid (e : Event) (s : State) : (emit e s).brtValid = s.brtValid := by
  cases e <;> simp [emit, applyEvent, pinLevel, pinDir]
@[simp] theorem emit_offered (e : Event) (s : State) : (emit e s).offered = s.offered := by
  cases e <;> simp [emit, applyEvent, pinLevel, pinDir]
@[simp] theorem emit_rstIn (e : Event) (s : State) : (emit e s).rstIn = s.rstIn := by
  cases e <;> simp [emit, applyEvent, pinLevel, pinDir]
@[simp] theorem emit_trace (e : Event) (s : State) : (emit e s).trace = s.trace ++ [e] := rfl

@[simp] theorem perform_params (e : Event) (s : State) : (perform e s).params = s.params := emit_params e s
@[simp] theorem perform_mem (e : Event) (s : State) : (perform e s).mem = s.mem := emit_mem e s
@[simp] theorem perform_pol (e : Event) (s : State) : (perform e s).pol = s.pol := emit_pol e s
@[simp] theorem perform_ndig (e : Event) (s : State) : (perform e s).ndig = s.ndig := emit_ndig e s
@[simp] theorem perform_digpin (e : Event) (s : State) : (perform e s).digpin = s.digpin := emit_digpin e s
@[simp] theorem perform_pinData (e : Event) (s : State) : (perform e s).pinData = s.pinData := emit_pinData e s
@[simp] theorem perform_pinClk (e : Event) (s : State) : (perform e s).pinClk = s.pinClk := emit_pinClk e s
@[simp] theorem perform_pinLatch (e : Event) (s : State) : (perform e s).pinLatch = s.pinLatch := emit_pinLatch e s
@[simp] theorem perform_digitOn (e : Event) (s : State) : (perform e s).digitOn = s.digitOn := emit_digitOn e s
@[simp] theorem perform_digitOff (e : Event) (s : State) : (perform e s).digitOff = s.digitOff := emit_digitOff e s
@[simp] theorem perform_segOn (e : Event) (s : State) : (perform e s).segOn = s.segOn := emit_segOn e s
@[simp] theorem perform_segOff (e : Event) (s : State) : (perform e s).segOff = s.segOff := emit_segOff e s
@[simp] theorem perform_bright (e : Event) (s : State) : (perform e s).bright = s.bright := emit_bright e s
@[simp] theorem perform_onTime (e : Event) (s : State) : (perform e s).onTime = s.onTime := emit_onTime e s
@[simp] theorem perform_busy (e : Event) (s : State) : (perform e s).busy = s.busy := emit_busy e s
@[simp] theorem perform_op (e : Event) (s : State) : (perform e s).op = s.op := emit_op e s
@[simp] theorem perform_upc (e : Event) (s : State) : (perform e s).upc = s.upc := emit_upc e s
@[simp] theorem perform_expansion (e : Event) (s : State) : (perform e s).expansion = s.expansion := emit_expansion e s
@[simp] theorem perform_text (e : Event) (s : State) : (perform e s).text = s.text := emit_text e s
@[simp] theorem perform_dpmask (e : Event) (s : State) : (perform e s).dpmask = s.dpmask := emit_dpmask e s
@[simp] theorem perform_configured (e : Event) (s : State) : (perform e s).configured = s.configured := emit_configured e s
@[simp] theorem perform_brtValid (e : Event) (s : State) : (perform e s).brtValid = s.brtValid := emit_brtValid e s
@[simp] theorem perform_offered (e : Event) (s : State) : (perform e s).offered = s.offered := emit_offered e s
@[simp] theorem perform_rstIn (e : Event) (s : State) : (perform e s).rstIn = s.rstIn := emit_rstIn e s
@[simp] theorem perform_trace (e : Event) (s : State) : (perform e s).trace = s.trace ++ [e] := rfl
@[simp] theorem perform_hold (e : Event) (s : State) : (perform e s).hold = 0#16 := rfl

@[simp] theorem performAll_nil (s : State) : performAll [] s = s := rfl

@[simp] theorem performAll_cons (e : Event) (es : List Event) (s : State) :
    performAll (e :: es) s = performAll es (perform e s) := rfl

theorem performAll_append (es fs : List Event) (s : State) :
    performAll (es ++ fs) s = performAll fs (performAll es s) := by
  simp [performAll, List.foldl_append]

@[simp] theorem performAll_params (es : List Event) (s : State) : (performAll es s).params = s.params := by
  induction es generalizing s <;> simp_all
@[simp] theorem performAll_mem (es : List Event) (s : State) : (performAll es s).mem = s.mem := by
  induction es generalizing s <;> simp_all
@[simp] theorem performAll_pol (es : List Event) (s : State) : (performAll es s).pol = s.pol := by
  induction es generalizing s <;> simp_all
@[simp] theorem performAll_ndig (es : List Event) (s : State) : (performAll es s).ndig = s.ndig := by
  induction es generalizing s <;> simp_all
@[simp] theorem performAll_digpin (es : List Event) (s : State) : (performAll es s).digpin = s.digpin := by
  induction es generalizing s <;> simp_all
@[simp] theorem performAll_pinData (es : List Event) (s : State) : (performAll es s).pinData = s.pinData := by
  induction es generalizing s <;> simp_all
@[simp] theorem performAll_pinClk (es : List Event) (s : State) : (performAll es s).pinClk = s.pinClk := by
  induction es generalizing s <;> simp_all
@[simp] theorem performAll_pinLatch (es : List Event) (s : State) : (performAll es s).pinLatch = s.pinLatch := by
  induction es generalizing s <;> simp_all
@[simp] theorem performAll_digitOn (es : List Event) (s : State) : (performAll es s).digitOn = s.digitOn := by
  induction es generalizing s <;> simp_all
@[simp] theorem performAll_digitOff (es : List Event) (s : State) : (performAll es s).digitOff = s.digitOff := by
  induction es generalizing s <;> simp_all
@[simp] theorem performAll_segOn (es : List Event) (s : State) : (performAll es s).segOn = s.segOn := by
  induction es generalizing s <;> simp_all
@[simp] theorem performAll_segOff (es : List Event) (s : State) : (performAll es s).segOff = s.segOff := by
  induction es generalizing s <;> simp_all
@[simp] theorem performAll_bright (es : List Event) (s : State) : (performAll es s).bright = s.bright := by
  induction es generalizing s <;> simp_all
@[simp] theorem performAll_onTime (es : List Event) (s : State) : (performAll es s).onTime = s.onTime := by
  induction es generalizing s <;> simp_all
@[simp] theorem performAll_busy (es : List Event) (s : State) : (performAll es s).busy = s.busy := by
  induction es generalizing s <;> simp_all
@[simp] theorem performAll_op (es : List Event) (s : State) : (performAll es s).op = s.op := by
  induction es generalizing s <;> simp_all
@[simp] theorem performAll_upc (es : List Event) (s : State) : (performAll es s).upc = s.upc := by
  induction es generalizing s <;> simp_all
@[simp] theorem performAll_expansion (es : List Event) (s : State) : (performAll es s).expansion = s.expansion := by
  induction es generalizing s <;> simp_all
@[simp] theorem performAll_text (es : List Event) (s : State) : (performAll es s).text = s.text := by
  induction es generalizing s <;> simp_all
@[simp] theorem performAll_dpmask (es : List Event) (s : State) : (performAll es s).dpmask = s.dpmask := by
  induction es generalizing s <;> simp_all
@[simp] theorem performAll_configured (es : List Event) (s : State) : (performAll es s).configured = s.configured := by
  induction es generalizing s <;> simp_all
@[simp] theorem performAll_brtValid (es : List Event) (s : State) : (performAll es s).brtValid = s.brtValid := by
  induction es generalizing s <;> simp_all
@[simp] theorem performAll_offered (es : List Event) (s : State) : (performAll es s).offered = s.offered := by
  induction es generalizing s <;> simp_all
@[simp] theorem performAll_rstIn (es : List Event) (s : State) : (performAll es s).rstIn = s.rstIn := by
  induction es generalizing s <;> simp_all

@[simp] theorem performAll_trace (es : List Event) (s : State) :
    (performAll es s).trace = s.trace ++ es := by
  induction es generalizing s <;> simp_all

end Sys2Proof.Machine
end

