-- ==== Sys2Proof/Laws/Pins.lean ====
section
/-! SUPPORT. Reading and writing one bit for each role, and what single events do to OE and LVL. -/

namespace Sys2Proof.Machine

@[simp] theorem RoleBits.get_set_same (b : RoleBits) (r : Role) (v : Bool) : (b.set r v).get r = v := by
  cases r <;> rfl

theorem RoleBits.get_set_other (b : RoleBits) (r q : Role) (v : Bool) (h : q ≠ r) :
    (b.set r v).get q = b.get q := by
  cases r <;> cases q <;> first | rfl | exact absurd rfl h

@[simp] theorem RoleBits.get_zero (r : Role) : RoleBits.zero.get r = false := by
  cases r <;> rfl

theorem RoleBits.ext_get (b c : RoleBits) (h : ∀ r, b.get r = c.get r) : b = c := by
  have h0 := h .dig0
  have h1 := h .dig1
  have h2 := h .dig2
  have h3 := h .dig3
  have h4 := h .sdata
  have h5 := h .sclk
  have h6 := h .slatch
  cases b
  cases c
  simp_all [RoleBits.get]

theorem digitRole_injective (i j : Fin 4) (h : digitRole i = digitRole j) : i = j := by
  revert h
  revert i j
  decide

@[simp] theorem digitRole_ne_sdata (i : Fin 4) : digitRole i ≠ .sdata := by revert i; decide
@[simp] theorem digitRole_ne_sclk (i : Fin 4) : digitRole i ≠ .sclk := by revert i; decide
@[simp] theorem digitRole_ne_slatch (i : Fin 4) : digitRole i ≠ .slatch := by revert i; decide

@[simp] theorem roleDigit_digitRole (i : Fin 4) : roleDigit (digitRole i) = some i := by revert i; decide

@[simp] theorem perform_pinLevel_oe (r : Role) (l : Bool) (s : State) : (perform (.pinLevel r l) s).oe = s.oe := by
  simp [perform, emit, applyEvent, pinLevel]

@[simp] theorem perform_pinLevel_lvl (r : Role) (l : Bool) (s : State) :
    (perform (.pinLevel r l) s).lvl = s.lvl.set r l := rfl

@[simp] theorem perform_pinDir_oe (r : Role) (s : State) : (perform (.pinDir r) s).oe = s.oe.set r true := rfl

@[simp] theorem perform_pinDir_lvl (r : Role) (s : State) : (perform (.pinDir r) s).lvl = s.lvl := rfl

@[simp] theorem perform_wait_oe (n : Nat) (s : State) : (perform (.wait n) s).oe = s.oe := rfl

@[simp] theorem perform_wait_lvl (n : Nat) (s : State) : (perform (.wait n) s).lvl = s.lvl := rfl

@[simp] theorem perform_memRead_oe (c p : Byte) (s : State) : (perform (.memRead c p) s).oe = s.oe := rfl

@[simp] theorem perform_memRead_lvl (c p : Byte) (s : State) : (perform (.memRead c p) s).lvl = s.lvl := rfl

end Sys2Proof.Machine
end

