-- ==== Sys2Proof/Laws/Sequencer.lean ====
section
/-! SUPPORT. What the sequencer does, said once: a run to idle performs exactly the events that remain and completes the
command (10_state.md R25). -/

namespace Sys2Proof.Machine

@[simp] theorem runBusy_of_idle (n : Nat) (s : State) (h : s.busy = false) : runBusy n s = s := by
  cases n <;> simp [runBusy, h]

theorem runBusy_of_busy (n : Nat) (s : State) (h : s.busy = true) : runBusy (n + 1) s = runBusy n (busyTick s) := by
  simp [runBusy, h]

@[simp] theorem runToIdle_of_idle (s : State) (h : s.busy = false) : runToIdle s = s :=
  runBusy_of_idle _ s h

/-- A command offered to an idle engine is accepted or refused at once. -/
theorem runCommand_of_idle (accept : State → Host.Outcome State Fault Refusal) (s : State) (h : s.busy = false) :
    runCommand accept s =
      match accept s with
      | .next t => .next (runToIdle t)
      | .fault f => .fault f
      | .refused r => .refused r := by
  cases ha : accept s <;> simp only [runCommand, runToIdle_of_idle s h, ha]

theorem ticksOf_cons (e : Event) (es : List Event) : ticksOf (e :: es) = ticksOfEvent e + ticksOf es := rfl

theorem ticksOfEvent_le (e : Event) : ticksOfEvent e ≤ 2 := by
  cases e <;> simp [ticksOfEvent]
  split <;> omega

theorem ticksOf_le (es : List Event) : ticksOf es ≤ 2 * es.length := by
  induction es with
  | nil => simp [ticksOf]
  | cons e es ih =>
    have := ticksOfEvent_le e
    simp only [ticksOf_cons, List.length_cons]
    omega

theorem start_eq_runningAt (op : BitVec 4) (es : List Event) (s : State) : start op es s = runningAt op es 0 s := rfl

theorem emit_hold_of_not_wait (e : Event) (s : State) (h : ∀ n, e ≠ .wait n) : (emit e s).hold = s.hold := by
  cases e with
  | wait n => exact absurd rfl (h n)
  | pinDir r => rfl
  | pinLevel r l => simp [emit, applyEvent, pinLevel]
  | memRead c p => rfl

/-- An event has loaded HOLD exactly when it takes two ticks. -/
theorem emit_hold_eq_zero_iff (e : Event) (s : State) (h : s.hold = 0#16) :
    (emit e s).hold = 0#16 ↔ ticksOfEvent e = 1 := by
  cases e with
  | wait n => simp [emit, applyEvent, ticksOfEvent]
  | pinDir r => simp [emit, applyEvent, ticksOfEvent, h]
  | pinLevel r l => simp [emit, applyEvent, pinLevel, ticksOfEvent, h]
  | memRead c p => simp [emit, applyEvent, ticksOfEvent, h]

/-- The registers the sequencer owns do not influence what an event does. -/
theorem perform_runningAt (op : BitVec 4) (es : List Event) (k : Nat) (e : Event) (s : State) :
    perform e (runningAt op es k s) = runningAt op es k (perform e s) := by
  cases e with
  | pinDir r => rfl
  | wait n => rfl
  | memRead c p => rfl
  | pinLevel r l =>
    have hedge : ∀ r', isRisingEdge (runningAt op es k s) r' l = isRisingEdge s r' l := fun _ => rfl
    cases r <;> simp only [perform, emit, applyEvent, pinLevel, registerReaction, hedge] <;>
      first
        | rfl
        | (cases isRisingEdge s _ l <;> rfl)

theorem performAll_runningAt (op : BitVec 4) (fs es : List Event) (k : Nat) (s : State) :
    performAll es (runningAt op fs k s) = runningAt op fs k (performAll es s) := by
  induction es generalizing s with
  | nil => rfl
  | cons e es ih => rw [performAll_cons, performAll_cons, perform_runningAt, ih]

theorem complete_runningAt (op : BitVec 4) (es : List Event) (k : Nat) (s : State) :
    complete (runningAt op es k s) = complete (runningAt op [] 0 s) := rfl

/-- `advance` looks at UPC and the length alone. -/
theorem advance_runningAt (op : BitVec 4) (es : List Event) (k : Nat) (s : State) :
    advance (runningAt op es k s) =
      if es.length ≤ k + 1 then complete (runningAt op [] 0 s) else runningAt op es (k + 1) s := rfl

/-- One event, from its beginning to its end, takes its ticks and leaves the command at the next event. -/
theorem runBusy_event (op : BitVec 4) (es : List Event) (k : Nat) (e : Event) (s : State) (fuel : Nat)
    (hr : s.rstIn = none) (he : es[k]? = some e) :
    runBusy (ticksOfEvent e + fuel) (runningAt op es k s) =
      runBusy fuel (advance (runningAt op es k (perform e s))) := by
  rw [← perform_runningAt]
  have hstep : busyTick (runningAt op es k s) =
      if (emit e (runningAt op es k s)).hold = 0#16 then advance (emit e (runningAt op es k s))
      else emit e (runningAt op es k s) := by
    simp only [busyTick, sequencerStep, runningAt_rstIn, hr, runningAt_hold, if_true, runningAt_expansion,
      runningAt_upc, he]
  by_cases ht : ticksOfEvent e = 1
  · have hh := (emit_hold_eq_zero_iff e (runningAt op es k s) rfl).2 ht
    have hp : perform e (runningAt op es k s) = emit e (runningAt op es k s) := by
      apply State.ext <;> first | rfl | exact hh.symm
    rw [ht, Nat.add_comm 1, runBusy_of_busy _ _ rfl, hstep, if_pos hh, hp]
  · have hh := mt (emit_hold_eq_zero_iff e (runningAt op es k s) rfl).1 ht
    have h2 : busyTick (emit e (runningAt op es k s)) = advance (perform e (runningAt op es k s)) := by
      simp only [busyTick, sequencerStep, emit_rstIn, runningAt_rstIn, hr, if_neg hh, perform]
    have hle := ticksOfEvent_le e
    have hpos : ticksOfEvent e ≠ 0 := by
      cases e <;> simp [ticksOfEvent]
      split <;> omega
    rw [show ticksOfEvent e + fuel = fuel + 1 + 1 by omega, runBusy_of_busy _ _ rfl, hstep, if_neg hh,
      runBusy_of_busy _ _ (by simp), h2]

/-- With RST away, the run of a command performs the events from UPC on and completes. -/
theorem runBusy_runningAt (op : BitVec 4) (es : List Event) (k : Nat) (s : State) (fuel : Nat)
    (hr : s.rstIn = none) (hk : k < es.length) (hf : ticksOf (es.drop k) ≤ fuel) :
    runBusy fuel (runningAt op es k s) = complete (runningAt op [] 0 (performAll (es.drop k) s)) := by
  induction h : es.length - k generalizing k s fuel with
  | zero => omega
  | succ m ih =>
    have hd : es.drop k = es[k] :: es.drop (k + 1) := List.drop_eq_getElem_cons hk
    rw [hd, ticksOf_cons] at hf
    rw [show fuel = ticksOfEvent es[k] + (fuel - ticksOfEvent es[k]) by omega,
      runBusy_event op es k es[k] s _ hr (List.getElem?_eq_getElem hk), hd, performAll_cons, advance_runningAt]
    by_cases hl : es.length ≤ k + 1
    · rw [if_pos hl, List.drop_eq_nil_of_le hl, performAll_nil, runBusy_of_idle _ _ rfl]
    · rw [if_neg hl]
      exact ih (k + 1) (perform es[k] s) _ (by simpa using hr) (by omega) (by omega) (by omega)

/-- The one law of a command's run: with RST away it ends where the whole expansion at once ends (R25). -/
theorem runToIdle_start (op : BitVec 4) (es : List Event) (s : State) (hr : s.rstIn = none) :
    runToIdle (start op es s) = completeAtOnce op es s := by
  simp only [completeAtOnce, runToIdle, start_eq_runningAt, performAll_runningAt, runningAt_expansion]
  rw [complete_runningAt]
  cases es with
  | nil =>
    have h : busyTick (runningAt op [] 0 s) = complete (runningAt op [] 0 s) := by
      simp only [busyTick, sequencerStep, runningAt_rstIn, hr, runningAt_hold, if_true, runningAt_expansion,
        List.getElem?_nil]
    rw [performAll_nil, List.length_nil, runBusy_of_busy _ _ rfl, h, runBusy_of_idle _ _ rfl]
  | cons e es =>
    have h := ticksOf_le (e :: es)
    exact runBusy_runningAt op (e :: es) 0 s _ hr (by simp) (by simp only [List.drop_zero]; omega)

end Sys2Proof.Machine
end

