-- ==== Sys2Proof/Laws/Shift.lean ====
section
/-! SUPPORT. What a bit cell, SHIFTOUT and SHIFTWRITE do when the serial lines are driven (42_shift.md R134), said once as
an equation for the state they leave. -/

namespace Sys2Proof.Machine

/-- A bit cell shifts its bit in and leaves the clock high and the data low. -/
theorem performAll_bitCell (b : Bool) (s : State) (h : SerialDriven s) :
    performAll (bitCell b) s =
      { s with
        lvl := { s.lvl with sclk := true, sdata := false }
        srShift := shiftIn s.srShift b
        hold := 0#16
        trace := s.trace ++ bitCell b } := by
  obtain ⟨hd, hc, -⟩ := h
  simp [bitCell, perform, endHold, emit, applyEvent, pinLevel, registerReaction, isRisingEdge, RoleBits.get,
    RoleBits.set, onClockRise, sampledBit, hd, hc]

/-- The bits of the shift stage after one edge: the new bit at 0, the others one place up (R179). -/
theorem getLsbD_shiftIn (sr : Byte) (d : Bool) (i : Nat) (h : i < 8) :
    (shiftIn sr d).getLsbD i = if i = 0 then d else sr.getLsbD (i - 1) := by
  unfold shiftIn
  rw [BitVec.getLsbD_append]
  by_cases h0 : i = 0
  · subst h0
    simp
  · have h1 : ¬ i < 1 := by omega
    have h2 : i - 1 < 7 := by omega
    simp [h0, h1, h2]

/-- Eight bits shifted in, most significant first, push out the old contents (R134, R179). -/
theorem shiftIn_eight (sr v : Byte) :
    shiftIn (shiftIn (shiftIn (shiftIn (shiftIn (shiftIn (shiftIn (shiftIn sr (bitOf v 7)) (bitOf v 6)) (bitOf v 5))
      (bitOf v 4)) (bitOf v 3)) (bitOf v 2)) (bitOf v 1)) (bitOf v 0) = v := by
  apply BitVec.eq_of_getLsbD_eq
  intro i hi
  have : i = 0 ∨ i = 1 ∨ i = 2 ∨ i = 3 ∨ i = 4 ∨ i = 5 ∨ i = 6 ∨ i = 7 := by omega
  rcases this with h | h | h | h | h | h | h | h <;> subst h <;>
    simp only [getLsbD_shiftIn, Nat.reduceLT, if_true, if_false, Nat.reduceSub, bitOf, one_ne_zero,
      Nat.sub_self, OfNat.ofNat_ne_zero]

/-- SHIFTOUT: SR_SHIFT takes the byte, SR_OUT keeps its own; clock and data end low (R130, R134). -/
theorem performAll_shiftOut (v : Byte) (s : State) (h : SerialDriven s) :
    performAll (shiftOut v) s =
      { s with
        lvl := { s.lvl with sclk := false, sdata := false }
        srShift := v
        hold := 0#16
        trace := s.trace ++ shiftOut v } := by
  obtain ⟨hd, hc, hl⟩ := h
  unfold shiftOut
  simp only [performAll_append]
  rw [performAll_bitCell (bitOf v 7), performAll_bitCell (bitOf v 6), performAll_bitCell (bitOf v 5),
    performAll_bitCell (bitOf v 4), performAll_bitCell (bitOf v 3), performAll_bitCell (bitOf v 2),
    performAll_bitCell (bitOf v 1), performAll_bitCell (bitOf v 0)]
  · simp only [shiftIn_eight]
    simp [perform, endHold, emit, applyEvent, pinLevel, registerReaction, isRisingEdge, RoleBits.set]
  all_goals exact ⟨hd, hc, hl⟩

/-- SHIFTWRITE: both stages take the byte; clock and data end low, latch ends high (R131, R134). -/
theorem performAll_shiftWrite (v : Byte) (s : State) (h : SerialDriven s) :
    performAll (shiftWrite v) s =
      { s with
        lvl := { s.lvl with sclk := false, sdata := false, slatch := true }
        srShift := v
        srOut := v
        hold := 0#16
        trace := s.trace ++ shiftWrite v } := by
  obtain ⟨hd, hc, hl⟩ := h
  have h1 : performAll [.pinLevel .slatch false] s =
      { s with lvl := { s.lvl with slatch := false }, hold := 0#16, trace := s.trace ++ [.pinLevel .slatch false] } := by
    simp [perform, endHold, emit, applyEvent, pinLevel, registerReaction, isRisingEdge, RoleBits.set]
  unfold shiftWrite
  rw [performAll_append, performAll_append, h1, performAll_shiftOut v]
  · simp [perform, endHold, emit, applyEvent, pinLevel, registerReaction, isRisingEdge, RoleBits.set, RoleBits.get,
      onLatchRise, hl]
  · exact ⟨hd, hc, hl⟩

theorem shiftOut_length (v : Byte) : (shiftOut v).length = 33 := rfl

theorem shiftWrite_length (v : Byte) : (shiftWrite v).length = 35 := rfl

/-- An event that touches no direction and no digit line: a level of the serial link, a wait or a ROM read. -/
def leavesDigitsAlone : Event → Bool
  | .pinLevel .sdata _ => true
  | .pinLevel .sclk _ => true
  | .pinLevel .slatch _ => true
  | .pinLevel .dig0 _ => false
  | .pinLevel .dig1 _ => false
  | .pinLevel .dig2 _ => false
  | .pinLevel .dig3 _ => false
  | .pinDir _ => false
  | .wait _ => true
  | .memRead _ _ => true

theorem shiftOut_leavesDigitsAlone (v : Byte) : (shiftOut v).all leavesDigitsAlone = true := rfl

theorem shiftWrite_leavesDigitsAlone (v : Byte) : (shiftWrite v).all leavesDigitsAlone = true := rfl

/-- Such events leave every direction and every digit level alone, whether or not the serial lines are driven. -/
theorem performAll_digits_alone (es : List Event) (h : es.all leavesDigitsAlone = true) (s : State) :
    (performAll es s).oe = s.oe ∧ ∀ i : Fin 4, (performAll es s).lvl.get (digitRole i) = s.lvl.get (digitRole i) := by
  induction es generalizing s with
  | nil => simp
  | cons e es ih =>
    simp only [List.all_cons, Bool.and_eq_true] at h
    obtain ⟨h1, h2⟩ := ih h.2 (perform e s)
    rw [performAll_cons]
    cases e with
    | pinLevel r l =>
      refine ⟨by rw [h1, perform_pinLevel_oe], fun i => ?_⟩
      rw [h2 i, perform_pinLevel_lvl]
      apply RoleBits.get_set_other
      cases r <;> simp_all [leavesDigitsAlone]
    | pinDir r => simp [leavesDigitsAlone] at h
    | wait n => exact ⟨h1, h2⟩
    | memRead c p => exact ⟨h1, h2⟩

/-- So they leave what conducts as it is. -/
theorem conducts_digits_alone (es : List Event) (h : es.all leavesDigitsAlone = true) (s : State) (i : Fin 4) :
    conducts (performAll es s) i = conducts s i := by
  obtain ⟨h1, h2⟩ := performAll_digits_alone es h s
  simp only [conducts, h1, h2, performAll_digitOn]

end Sys2Proof.Machine
end

