-- ==== Sys2Proof/Laws/Commands.lean ====
section
/-! SUPPORT. A command given to an idle engine, said once: it is accepted or refused by its own acceptance, and with RST
away an accepted command ends where its whole expansion at once ends (00_scope.md R18; 10_state.md R25). -/

namespace Sys2Proof.Machine

/-- Every meaning is its command's acceptance run to its end. -/
theorem exec_eq_runCommand (i : Instr) (s : State) : exec i s = runCommand (accept i) s := by
  cases i <;> rfl

/-- With the engine idle and RST away: an acceptance that starts an expansion decides the whole outcome. -/
theorem exec_of_start {i : Instr} {s u : State} {op : BitVec 4} {es : List Event} (hb : s.busy = false)
    (ha : accept i s = .next (start op es u)) (hr : u.rstIn = none) :
    exec i s = .next (completeAtOnce op es u) := by
  rw [exec_eq_runCommand, runCommand_of_idle _ _ hb, ha]
  simp only [runToIdle_start op es u hr]

/-- A refused acceptance is a refused command. -/
theorem exec_of_refused {i : Instr} {s : State} {r : Refusal} (hb : s.busy = false)
    (ha : accept i s = .refused r) : exec i s = .refused r := by
  rw [exec_eq_runCommand, runCommand_of_idle _ _ hb, ha]

/-- An acceptance that leaves the engine idle is the whole command (R120). -/
theorem exec_of_idle_next {i : Instr} {s a : State} (hb : s.busy = false) (ha : accept i s = .next a)
    (hi : a.busy = false) : exec i s = .next a := by
  rw [exec_eq_runCommand, runCommand_of_idle _ _ hb, ha]
  simp only [runToIdle_of_idle a hi]

/-- The whole expansion at once, field by field: what the sequencer owns is at rest, CONFIGURED is as the command leaves
it, and the rest is what the events leave. -/
theorem completeAtOnce_eq (op : BitVec 4) (es : List Event) (s : State) :
    completeAtOnce op es s =
      { performAll es s with
        busy := false
        op := 0#4
        upc := 0
        expansion := []
        hold := 0#16
        configured := configuredAfter op s.configured } := by
  simp only [completeAtOnce, start_eq_runningAt, performAll_runningAt, complete, completionFlags, runningAt_op,
    runningAt_configured, performAll_configured]
  rfl

@[simp] theorem configuredAfter_init (b : Bool) : configuredAfter 1#4 b = true := by cases b <;> rfl
@[simp] theorem configuredAfter_render (b : Bool) : configuredAfter 3#4 b = b := by cases b <;> rfl
@[simp] theorem configuredAfter_shout (b : Bool) : configuredAfter 4#4 b = b := by cases b <;> rfl
@[simp] theorem configuredAfter_shwr (b : Bool) : configuredAfter 5#4 b = b := by cases b <;> rfl

/-- The acceptance of a command that is accepted. -/
theorem accept_shout {b : Byte} {s : State} (hd : s.params.diagOps = true) (hc : s.configured = true) :
    accept (.shout b) s = .next (start 4#4 (shiftOut b) s) := by
  simp [accept, acceptShout, diagRefusal, hd, hc]

theorem accept_shwr {b : Byte} {s : State} (hd : s.params.diagOps = true) (hc : s.configured = true) :
    accept (.shwr b) s = .next (start 5#4 (shiftWrite b) s) := by
  simp [accept, acceptShwr, diagRefusal, hd, hc]

theorem accept_render {t0 t1 t2 t3 m : Byte} {s : State} (hc : s.configured = true) (hv : s.brtValid = true) :
    accept (.render t0 t1 t2 t3 m) s =
      .next (start 3#4 (renderExpansion s { b0 := t0, b1 := t1, b2 := t2, b3 := t3 })
        (latchText { b0 := t0, b1 := t1, b2 := t2, b3 := t3 } m s)) := by
  simp [accept, acceptRender, renderRefusal, hc, hv]

theorem pinsDistinct_iff (ps : List Byte) : pinsDistinct ps = true ↔ ps.Nodup := by
  induction ps with
  | nil => simp [pinsDistinct]
  | cons p ps ih => simp [pinsDistinct, ih]

theorem accept_init {pol : Polarity} {n : Nat} {d0 d1 d2 d3 data clk latch : Byte} {s : State}
    (h : acceptable (.init pol n d0 d1 d2 d3 data clk latch) s = true) :
    accept (.init pol n d0 d1 d2 d3 data clk latch) s =
      .next (start 1#4 (initExpansion n (!(digitOnOf s.params.levels pol)) s.params.allOff)
        (configure pol n { b0 := d0, b1 := d1, b2 := d2, b3 := d3 } data clk latch s)) := by
  simp only [acceptable, Bool.and_eq_true, Bool.not_eq_true', decide_eq_true_eq] at h
  obtain ⟨⟨⟨hc, hn⟩, hv⟩, hp⟩ := h
  have hnone : initRefusal n (usedPins n d0 d1 d2 d3 data clk latch)
      (encode (.init pol n d0 d1 d2 d3 data clk latch)) s = none := by
    simp only [initRefusal, hc, hn, hv, hp]
    simp
  simp only [accept, acceptInit, hnone]

end Sys2Proof.Machine
end

