-- ==== Sys2Proof/Laws/Decode.lean ====
section
/-! SUPPORT. The decoder by opcode, the slices of a word that is built from fields, and the word that is rebuilt from its
slices (30_encoding.md R70 to R78). -/

namespace Sys2Proof

theorem decode_init {diag : Bool} {w : Word} (h : (opcodeField w).toNat = 1) : decode diag w = decodeInit w := by
  simp only [decode, h]

theorem decode_setbrt {diag : Bool} {w : Word} (h : (opcodeField w).toNat = 2) : decode diag w = decodeSetbrt w := by
  simp only [decode, h]

theorem decode_render {diag : Bool} {w : Word} (h : (opcodeField w).toNat = 3) : decode diag w = decodeRender w := by
  simp only [decode, h]

theorem decode_shout {diag : Bool} {w : Word} (h : (opcodeField w).toNat = 4) :
    decode diag w = if diag = true then decodeShout w else .reservedOpcode := by
  simp only [decode, h]

theorem decode_shwr {diag : Bool} {w : Word} (h : (opcodeField w).toNat = 5) :
    decode diag w = if diag = true then decodeShwr w else .reservedOpcode := by
  simp only [decode, h]

theorem decode_reserved {diag : Bool} {w : Word}
    (h : (opcodeField w).toNat = 0 ∨ 6 ≤ (opcodeField w).toNat) : decode diag w = .reservedOpcode := by
  have hlt : (opcodeField w).toNat < 16 := (opcodeField w).isLt
  unfold decode
  generalize (opcodeField w).toNat = n at *
  have : n = 0 ∨ n = 6 ∨ n = 7 ∨ n = 8 ∨ n = 9 ∨ n = 10 ∨ n = 11 ∨ n = 12 ∨ n = 13 ∨ n = 14 ∨ n = 15 := by omega
  rcases this with h | h | h | h | h | h | h | h | h | h | h <;> subst h <;> rfl

/-- The bits of a field in its place. -/
theorem getLsbD_fieldAt {n : Nat} (lo : Nat) (v : BitVec n) (i : Nat) :
    (fieldAt lo v).getLsbD i = (decide (i < 64) && decide (lo ≤ i) && v.getLsbD (i - lo)) := by
  simp only [fieldAt, BitVec.getLsbD_shiftLeft, BitVec.getLsbD_setWidth]
  by_cases h1 : i < 64 <;> by_cases h2 : lo ≤ i
  · have : i - lo < 64 := by omega
    simp [h1, h2, this, Nat.not_lt.2 h2]
  · simp [h2, Nat.lt_of_not_le h2]
  · simp [h1]
  · simp [h1]

/-- A slice is the field that stands exactly there. -/
theorem slice_fieldAt_same {n : Nat} (lo : Nat) (v : BitVec n) (h : lo + n ≤ 64) :
    (fieldAt lo v).extractLsb' lo n = v := by
  apply BitVec.eq_of_getLsbD_eq
  intro i hi
  have : lo + i < 64 := by omega
  rw [BitVec.getLsbD_extractLsb', getLsbD_fieldAt]
  simp only [hi, this, decide_true, Bool.true_and, Nat.le_add_right, Nat.add_sub_cancel_left]

/-- A slice takes nothing from a field that lies above it. -/
theorem slice_fieldAt_above {n : Nat} (lo s len : Nat) (v : BitVec n) (h : s + len ≤ lo) :
    (fieldAt lo v).extractLsb' s len = 0#len := by
  apply BitVec.eq_of_getLsbD_eq
  intro i hi
  have : ¬ lo ≤ s + i := by omega
  rw [BitVec.getLsbD_extractLsb', getLsbD_fieldAt]
  simp [this]

/-- A slice takes nothing from a field that lies below it. -/
theorem slice_fieldAt_below {n : Nat} (lo s len : Nat) (v : BitVec n) (h : lo + n ≤ s) :
    (fieldAt lo v).extractLsb' s len = 0#len := by
  apply BitVec.eq_of_getLsbD_eq
  intro i hi
  have : n ≤ s + i - lo := by omega
  rw [BitVec.getLsbD_extractLsb', getLsbD_fieldAt, BitVec.getLsbD_of_ge _ _ this]
  simp

theorem slice_or (x y : Word) (s len : Nat) :
    (x ||| y).extractLsb' s len = x.extractLsb' s len ||| y.extractLsb' s len := by
  apply BitVec.eq_of_getLsbD_eq
  intro i hi
  simp only [BitVec.getLsbD_extractLsb', BitVec.getLsbD_or, hi, decide_true, Bool.true_and]

theorem getLsbD_eq_slice (w : Word) (i : Nat) : BitVec.ofBool (w.getLsbD i) = w.extractLsb' i 1 := by
  apply BitVec.eq_of_getLsbD_eq
  intro j hj
  have : j = 0 := by omega
  subst this
  rw [BitVec.getLsbD_extractLsb']
  simp

theorem polarity_bit (p : Polarity) : polarityOfBit (bitOfPolarity p) = p := by
  cases p <;> rfl

theorem bit_polarity (b : Bool) : bitOfPolarity (polarityOfBit b) = b := by
  cases b <;> rfl

end Sys2Proof
end

