-- ==== Sys2Proof/Laws/Memory.lean ====
section
/-! SUPPORT. The laws of the glyph ROM's contents: a write keeps the canonical form, reads back, and leaves every other
address alone. No command writes the ROM (20_memory.md R54); `Memory.write` builds the contents it is made with. -/

namespace Sys2Proof.Machine

@[simp] theorem Memory.read_nil (a : Nat) : Memory.read [] a = romDefault a := rfl

@[simp] theorem Memory.read_cons (k a : Nat) (v : Byte) (m : Memory) :
    Memory.read ((k, v) :: m) a = if a = k then v else Memory.read m a := rfl

@[simp] theorem Memory.wfFrom_nil (lo : Nat) : Memory.wfFrom lo [] = true := rfl

theorem Memory.wfFrom_cons (lo k : Nat) (v : Byte) (m : Memory) :
    Memory.wfFrom lo ((k, v) :: m) = true ↔
      lo ≤ k ∧ k < 256 ∧ v ≠ romDefault k ∧ Memory.wfFrom (k + 1) m = true := by
  simp [Memory.wfFrom, and_assoc]

theorem Memory.wfFrom_mono {lo lo' : Nat} {m : Memory} (h : Memory.wfFrom lo' m = true) (hl : lo ≤ lo') :
    Memory.wfFrom lo m = true := by
  cases m with
  | nil => rfl
  | cons c m =>
    rw [Memory.wfFrom_cons] at h ⊢
    exact ⟨by omega, h.2⟩

/-- An address below every listed one reads as the default table. -/
theorem Memory.read_of_lt {lo : Nat} {m : Memory} (h : Memory.wfFrom lo m = true) (a : Nat) (ha : a < lo) :
    Memory.read m a = romDefault a := by
  induction m generalizing lo with
  | nil => rfl
  | cons c m ih =>
    obtain ⟨k, v⟩ := c
    rw [Memory.wfFrom_cons] at h
    rw [Memory.read_cons, if_neg (by omega)]
    exact ih h.2.2.2 (by omega)

theorem Memory.wfFrom_consCell {lo a : Nat} {v : Byte} {m : Memory} (hm : Memory.wfFrom (a + 1) m = true)
    (hl : lo ≤ a) (ha : a < 256) : Memory.wfFrom lo (Memory.consCell a v m) = true := by
  unfold Memory.consCell
  split
  · exact Memory.wfFrom_mono hm (by omega)
  · rw [Memory.wfFrom_cons]
    exact ⟨hl, ha, by assumption, hm⟩

theorem Memory.read_consCell {a : Nat} {v : Byte} {m : Memory} (hm : Memory.wfFrom (a + 1) m = true) (b : Nat) :
    Memory.read (Memory.consCell a v m) b = if b = a then v else Memory.read m b := by
  unfold Memory.consCell
  split
  · split
    · subst_vars
      exact Memory.read_of_lt hm _ (by omega)
    · rfl
  · rfl

/-- A write keeps the canonical form. -/
theorem Memory.wfFrom_write {lo a : Nat} {v : Byte} {m : Memory} (h : Memory.wfFrom lo m = true) (hl : lo ≤ a)
    (ha : a < 256) : Memory.wfFrom lo (Memory.write m a v) = true := by
  induction m generalizing lo with
  | nil => exact Memory.wfFrom_consCell rfl hl ha
  | cons c m ih =>
    obtain ⟨k, w⟩ := c
    have h' := (Memory.wfFrom_cons lo k w m).1 h
    simp only [Memory.write]
    split
    · exact Memory.wfFrom_consCell ((Memory.wfFrom_cons _ _ _ _).2 ⟨by omega, h'.2⟩) hl ha
    · split
      · subst_vars
        exact Memory.wfFrom_consCell h'.2.2.2 hl ha
      · exact (Memory.wfFrom_cons _ _ _ _).2 ⟨h'.1, h'.2.1, h'.2.2.1, ih h'.2.2.2 (by omega)⟩

/-- A read after a write: the byte written at its address, every other byte as before. -/
theorem Memory.read_write_from {lo a : Nat} {v : Byte} {m : Memory} (h : Memory.wfFrom lo m = true) (b : Nat) :
    Memory.read (Memory.write m a v) b = if b = a then v else Memory.read m b := by
  induction m generalizing lo with
  | nil => exact Memory.read_consCell rfl b
  | cons c m ih =>
    obtain ⟨k, w⟩ := c
    have h' := (Memory.wfFrom_cons lo k w m).1 h
    simp only [Memory.write]
    split
    · exact Memory.read_consCell ((Memory.wfFrom_cons _ _ _ _).2 ⟨by omega, h'.2⟩) b
    · split
      · subst_vars
        rw [Memory.read_consCell h'.2.2.2, Memory.read_cons]
        split <;> rfl
      · rw [Memory.read_cons, ih h'.2.2.2, Memory.read_cons]
        by_cases hb : b = k
        · rw [if_pos hb, if_neg (by omega), if_pos hb]
        · rw [if_neg hb, if_neg hb]

theorem Memory.wf_write (m : Memory) (a : Nat) (v : Byte) (h : m.wf = true) (ha : a < 256) :
    (m.write a v).wf = true :=
  Memory.wfFrom_write h (Nat.zero_le a) ha

theorem Memory.read_write (m : Memory) (a : Nat) (v : Byte) (h : m.wf = true) (b : Nat) :
    (m.write a v).read b = if b = a then v else m.read b :=
  Memory.read_write_from h b

/-- In a table the spec allows, the blank reads as the empty pattern under either policy (R51, R53). -/
theorem glyphPattern_blank {p : Params} {m : Memory} (h : tableWf p m = true) (k : Nat) :
    glyphPattern p m k p.codes.blank = 0#8 := by
  simp only [tableWf, Params.wf, Params.coversCharacters, blankIsEmpty, Bool.and_eq_true, decide_eq_true_eq,
    List.all_eq_true] at h
  have hb : p.supported.contains p.codes.blank = true := h.1.1.2 _ (by simp [CharCodes.toList])
  rw [glyphPattern, if_pos hb]
  exact h.2

/-- The default parameters and table are ones the spec allows (R7, R52, R53). -/
theorem default_tableWf : tableWf Params.default [] = true := by decide

theorem reset_mem_wf : State.reset.mem.wf = true := rfl

end Sys2Proof.Machine
end

