-- ==== Sys2Proof/Laws/PerInstr.lean ====
section
/-! SUPPORT. Laws that hold of every command as syntax, one lemma for each constructor. The family `Encoding` says that
the word of a command carries its opcode and keeps the bits its format reserves at 0, well-formed or not: whatever an
operand is, it stays within its field (30_encoding.md R71 to R75). -/

namespace Sys2Proof.Laws.Encoding

/-- The opcode field of the word is the command's opcode, and the reserved bits of its format are 0: 59:16 of format B,
59:40 of format T, 59:8 of format S; format I reserves none. -/
def Statement : Instr → Prop
  | .init pol n d0 d1 d2 d3 data clk latch =>
    opcodeField (encode (.init pol n d0 d1 d2 d3 data clk latch)) = 1#4
  | .setbrt p =>
    opcodeField (encode (.setbrt p)) = 2#4 ∧ (encode (.setbrt p)).extractLsb' 16 44 = 0#44
  | .render t0 t1 t2 t3 m =>
    opcodeField (encode (.render t0 t1 t2 t3 m)) = 3#4 ∧ (encode (.render t0 t1 t2 t3 m)).extractLsb' 40 20 = 0#20
  | .shout b =>
    opcodeField (encode (.shout b)) = 4#4 ∧ (encode (.shout b)).extractLsb' 8 52 = 0#52
  | .shwr b =>
    opcodeField (encode (.shwr b)) = 5#4 ∧ (encode (.shwr b)).extractLsb' 8 52 = 0#52

theorem init (pol : Polarity) (n : Nat) (d0 d1 d2 d3 data clk latch : Byte) :
    Statement (.init pol n d0 d1 d2 d3 data clk latch) := by
  simp (disch := decide) only [Statement, opcodeField, encode, slice_or, slice_fieldAt_same, slice_fieldAt_below,
    BitVec.or_zero]

theorem setbrt (p : Int) : Statement (.setbrt p) := by
  simp (disch := decide) only [Statement, opcodeField, encode, slice_or, slice_fieldAt_same, slice_fieldAt_above,
    slice_fieldAt_below, BitVec.or_zero, and_self]

theorem render (t0 t1 t2 t3 m : Byte) : Statement (.render t0 t1 t2 t3 m) := by
  simp (disch := decide) only [Statement, opcodeField, encode, slice_or, slice_fieldAt_same, slice_fieldAt_above,
    slice_fieldAt_below, BitVec.or_zero, and_self]

theorem shout (b : Byte) : Statement (.shout b) := by
  simp (disch := decide) only [Statement, opcodeField, encode, slice_or, slice_fieldAt_same, slice_fieldAt_above,
    slice_fieldAt_below, BitVec.or_zero, and_self]

theorem shwr (b : Byte) : Statement (.shwr b) := by
  simp (disch := decide) only [Statement, opcodeField, encode, slice_or, slice_fieldAt_same, slice_fieldAt_above,
    slice_fieldAt_below, BitVec.or_zero, and_self]

end Sys2Proof.Laws.Encoding
end

