-- ==== Sys2Proof/Laws/Render.lean ====
section
/-! SUPPORT. The cycle of one digit, said once: from driven serial lines it leaves the digit's line at DIGIT_OFF, the
serial lines at their quiescent levels and the external register blank (43_render.md R151, R159). -/

namespace Sys2Proof.Machine

theorem digitCycle_length (s : State) (i : Fin 4) (c p : Byte) : (digitCycle s i c p).length = 75 := rfl

theorem RoleBits.set_digit_serial (b : RoleBits) (i : Fin 4) (v : Bool) :
    (b.set (digitRole i) v).sdata = b.sdata ∧ (b.set (digitRole i) v).sclk = b.sclk ∧
    (b.set (digitRole i) v).slatch = b.slatch := by
  match i with
  | 0 => exact ⟨rfl, rfl, rfl⟩
  | 1 => exact ⟨rfl, rfl, rfl⟩
  | 2 => exact ⟨rfl, rfl, rfl⟩
  | 3 => exact ⟨rfl, rfl, rfl⟩

/-- A write to a digit line: the level, the trace, and nothing of the external register. -/
theorem perform_digit (i : Fin 4) (l : Bool) (s : State) :
    perform (.pinLevel (digitRole i) l) s =
      { s with
        lvl := s.lvl.set (digitRole i) l
        hold := 0#16
        trace := s.trace ++ [.pinLevel (digitRole i) l] } := by
  match i with
  | 0 => rfl
  | 1 => rfl
  | 2 => rfl
  | 3 => rfl

theorem perform_wait (n : Nat) (s : State) :
    perform (.wait n) s = { s with hold := 0#16, trace := s.trace ++ [.wait n] } := rfl

theorem perform_memRead (c p : Byte) (s : State) :
    perform (.memRead c p) s = { s with hold := 0#16, trace := s.trace ++ [.memRead c p] } := rfl

/-- The whole cycle (R151). -/
theorem performAll_digitCycle (s u : State) (i : Fin 4) (c p : Byte) (h : SerialDriven u) :
    performAll (digitCycle s i c p) u =
      { u with
        lvl := { u.lvl.set (digitRole i) s.digitOff with sdata := false, sclk := false, slatch := true }
        srShift := s.params.allOff
        srOut := s.params.allOff
        hold := 0#16
        trace := u.trace ++ digitCycle s i c p } := by
  obtain ⟨hd, hc, hl⟩ := h
  have h1 : performAll [.pinLevel (digitRole i) s.digitOn, .memRead c p] u =
      { u with
        lvl := u.lvl.set (digitRole i) s.digitOn
        hold := 0#16
        trace := u.trace ++ [.pinLevel (digitRole i) s.digitOn, .memRead c p] } := by
    rw [performAll_cons, perform_digit, performAll_cons, perform_memRead, performAll_nil]
    simp
  have h2 : ∀ v : State, performAll [.wait (onHold s)] v =
      { v with hold := 0#16, trace := v.trace ++ [.wait (onHold s)] } := fun v => rfl
  have h3 : ∀ v : State, performAll [.pinLevel (digitRole i) s.digitOff, .wait (offTime s)] v =
      { v with
        lvl := v.lvl.set (digitRole i) s.digitOff
        hold := 0#16
        trace := v.trace ++ [.pinLevel (digitRole i) s.digitOff, .wait (offTime s)] } := by
    intro v
    rw [performAll_cons, perform_digit, performAll_cons, perform_wait, performAll_nil]
    simp
  unfold digitCycle
  rw [performAll_append, performAll_append, performAll_append, performAll_append, h1, performAll_shiftWrite (not8 p),
    h2, performAll_shiftWrite s.params.allOff, h3]
  · match i with
    | 0 => simp [digitRole, RoleBits.set]
    | 1 => simp [digitRole, RoleBits.set]
    | 2 => simp [digitRole, RoleBits.set]
    | 3 => simp [digitRole, RoleBits.set]
  · exact ⟨hd, hc, hl⟩
  · exact ⟨hd, hc, hl⟩

end Sys2Proof.Machine
end

