-- ==== Sys2Proof/Laws/Steps.lean ====
section
/-! SUPPORT. What each shared operation can do, said once: the events, a tick with BUSY = 1, an acceptance, a tick, and the
principle by which a property that the single operations keep is kept by every tick and every step. -/

namespace Sys2Proof.Machine

/-! ### Events -/

/-- The registers an event can write: the pins, the external register, the trace, the timer and the count of free values. -/
theorem perform_frame (e : Event) (s : State) :
    perform e s =
      { s with
        oe := (perform e s).oe
        lvl := (perform e s).lvl
        srShift := (perform e s).srShift
        srOut := (perform e s).srOut
        draws := (perform e s).draws
        trace := s.trace ++ [e]
        hold := 0#16 } := by
  cases e with
  | pinLevel r l =>
    cases r <;> simp only [perform, emit, applyEvent, pinLevel, registerReaction, endHold] <;> (try split) <;> rfl
  | pinDir r => rfl
  | wait n => rfl
  | memRead c p => rfl

/-- The same of a list of events. -/
theorem performAll_frame (es : List Event) (s : State) :
    performAll es s =
      { s with
        oe := (performAll es s).oe
        lvl := (performAll es s).lvl
        srShift := (performAll es s).srShift
        srOut := (performAll es s).srOut
        draws := (performAll es s).draws
        trace := s.trace ++ es
        hold := (performAll es s).hold } := by
  induction es generalizing s with
  | nil => simp [performAll]
  | cons e es ih =>
    have h := ih (perform e s)
    have hs := perform_frame e s
    generalize hu : perform e s = u at h hs
    have hp : performAll (e :: es) s = performAll es u := by rw [← hu]; rfl
    rw [hp, h, hs]
    simp only [List.append_assoc, List.singleton_append]

/-! ### A tick with BUSY = 1 -/

/-- Everything a tick with BUSY = 1 can do: reset, end the hold in progress, find the expansion at its end, or begin event
number UPC, which is over at once unless it loaded HOLD. -/
theorem busyTick_cases (s : State) :
    (s.rstIn = some 0 ∧ busyTick s = engineReset s) ∨
    ∃ u, (s.rstIn = none ∧ u = s ∨ ∃ k, s.rstIn = some (k + 1) ∧ u = { s with rstIn := some k }) ∧
      ((s.hold ≠ 0#16 ∧ busyTick s = advance (endHold u)) ∨
        (s.hold = 0#16 ∧ s.expansion[s.upc]? = none ∧ busyTick s = complete u) ∨
        ∃ e, s.hold = 0#16 ∧ s.expansion[s.upc]? = some e ∧
          ((emit e u).hold = 0#16 ∧ busyTick s = advance (emit e u) ∨
            (emit e u).hold ≠ 0#16 ∧ busyTick s = emit e u)) := by
  have key : ∀ u : State, u.hold = s.hold → u.expansion = s.expansion → u.upc = s.upc →
      busyTick s = sequencerStep u →
      ((s.hold ≠ 0#16 ∧ busyTick s = advance (endHold u)) ∨
        (s.hold = 0#16 ∧ s.expansion[s.upc]? = none ∧ busyTick s = complete u) ∨
        ∃ e, s.hold = 0#16 ∧ s.expansion[s.upc]? = some e ∧
          ((emit e u).hold = 0#16 ∧ busyTick s = advance (emit e u) ∨
            (emit e u).hold ≠ 0#16 ∧ busyTick s = emit e u)) := by
    intro u h1 h2 h3 hb
    rw [hb]
    unfold sequencerStep
    rw [h1, h2, h3]
    by_cases hh : s.hold = 0#16
    · rw [if_pos hh]
      cases he : s.expansion[s.upc]? with
      | none => exact .inr (.inl ⟨hh, rfl, rfl⟩)
      | some e =>
        refine .inr (.inr ⟨e, hh, rfl, ?_⟩)
        by_cases hw : (emit e u).hold = 0#16
        · exact .inl ⟨hw, by simp only [hw, if_true]⟩
        · exact .inr ⟨hw, by simp only [hw, if_false]⟩
    · rw [if_neg hh]
      exact .inl ⟨hh, rfl⟩
  cases hr : s.rstIn with
  | none =>
    exact .inr ⟨s, .inl ⟨rfl, rfl⟩, key s rfl rfl rfl (by simp only [busyTick, hr])⟩
  | some k =>
    cases k with
    | zero => exact .inl ⟨rfl, by simp only [busyTick, hr]⟩
    | succ k =>
      exact .inr ⟨{ s with rstIn := some k }, .inr ⟨k, rfl, rfl⟩, key _ rfl rfl rfl (by simp only [busyTick, hr])⟩

/-! ### Acceptance -/

/-- Everything an acceptance that answers a next state can do: SETBRT writes the brightness registers, and every other
command starts its expansion from the registers its rule writes. -/
theorem accept_cases {i : Instr} {s t : State} (h : accept i s = .next t) :
    (∃ pol n d0 d1 d2 d3 data clk latch, i = .init pol n d0 d1 d2 d3 data clk latch ∧
      initRefusal n (usedPins n d0 d1 d2 d3 data clk latch) (encode i) s = none ∧
      t = start 1#4 (initExpansion n (!(digitOnOf s.params.levels pol)) s.params.allOff)
        (configure pol n { b0 := d0, b1 := d1, b2 := d2, b3 := d3 } data clk latch s)) ∨
    (∃ p, i = .setbrt p ∧
      t = setBrtValid
        { s with
          bright := BitVec.ofNat 7 (clampPercent p)
          onTime := BitVec.ofNat 16 (onTimeOf s.params.round s.params.framePeriod.toNat (clampPercent p)) }) ∨
    (∃ t0 t1 t2 t3 m, i = .render t0 t1 t2 t3 m ∧ s.configured = true ∧ s.brtValid = true ∧
      t = start 3#4 (renderExpansion s { b0 := t0, b1 := t1, b2 := t2, b3 := t3 })
        (latchText { b0 := t0, b1 := t1, b2 := t2, b3 := t3 } m s)) ∨
    (∃ b, i = .shout b ∧ s.params.diagOps = true ∧ s.configured = true ∧ t = start 4#4 (shiftOut b) s) ∨
    (∃ b, i = .shwr b ∧ s.params.diagOps = true ∧ s.configured = true ∧ t = start 5#4 (shiftWrite b) s) := by
  cases i with
  | init pol n d0 d1 d2 d3 data clk latch =>
    refine .inl ⟨pol, n, d0, d1, d2, d3, data, clk, latch, rfl, ?_⟩
    simp only [accept, acceptInit, refuse] at h
    split at h
    · cases h
    · next hn => cases h; exact ⟨hn, rfl⟩
  | setbrt p =>
    refine .inr (.inl ⟨p, rfl, ?_⟩)
    cases h
    rfl
  | render t0 t1 t2 t3 m =>
    refine .inr (.inr (.inl ⟨t0, t1, t2, t3, m, rfl, ?_⟩))
    simp only [accept, acceptRender, refuse, renderRefusal] at h
    cases hc : s.configured <;> cases hv : s.brtValid <;> simp [hc, hv] at h
    exact ⟨rfl, rfl, h.symm⟩
  | shout b =>
    refine .inr (.inr (.inr (.inl ⟨b, rfl, ?_⟩)))
    simp only [accept, acceptShout, refuse, diagRefusal] at h
    cases hd : s.params.diagOps <;> cases hc : s.configured <;> simp [hc, hd] at h
    exact ⟨rfl, rfl, h.symm⟩
  | shwr b =>
    refine .inr (.inr (.inr (.inr ⟨b, rfl, ?_⟩)))
    simp only [accept, acceptShwr, refuse, diagRefusal] at h
    cases hd : s.params.diagOps <;> cases hc : s.configured <;> simp [hc, hd] at h
    exact ⟨rfl, rfl, h.symm⟩

/-- No acceptance ends in a fault (R170). -/
theorem no_fault (o : Host.Outcome State Fault Refusal) (f : Fault) : o ≠ .fault f := by
  cases f

/-! ### Ticks and steps -/

/-- Everything a tick that answers a next state can do. -/
theorem tick_cases {s t : State} (h : tick s = .next t) :
    (s.rstIn = some 0 ∧ t = engineReset s) ∨
    (s.rstIn ≠ some 0 ∧ s.busy = true ∧ t = busyTick s) ∨
    (s.rstIn ≠ some 0 ∧ s.busy = false ∧ s.offered = [] ∧ t = idleTick s) ∨
    ∃ w rest i, s.rstIn ≠ some 0 ∧ s.busy = false ∧ s.offered = w :: rest ∧
      decode s.params.diagOps w = .instr i ∧ accept i { s with offered := rest } = .next t := by
  unfold tick at h
  by_cases hr : s.rstIn = some 0
  · simp only [resetNow, hr, decide_true, if_true] at h
    cases h
    exact .inl ⟨hr, rfl⟩
  · simp only [resetNow, hr, decide_false] at h
    by_cases hb : s.busy = true
    · simp only [hb, if_true] at h
      cases h
      exact .inr (.inl ⟨hr, hb, rfl⟩)
    · simp only [hb, Bool.false_eq_true, if_false] at h
      rw [Bool.not_eq_true] at hb
      cases ho : s.offered with
      | nil =>
        simp only [offeredWord, ho] at h
        cases h
        exact .inr (.inr (.inl ⟨hr, hb, rfl, rfl⟩))
      | cons w rest =>
        simp only [offeredWord, ho, List.head?_cons, runWord, consumeWord, List.tail_cons, refuse] at h
        cases hd : decode s.params.diagOps w with
        | instr i =>
          simp only [hd] at h
          exact .inr (.inr (.inr ⟨w, rest, i, hr, hb, rfl, hd, h⟩))
        | reservedOpcode => simp only [hd] at h; cases h
        | reservedField => simp only [hd] at h; cases h

/-- A property that every tick with BUSY = 1 keeps is kept until the engine is idle. -/
theorem runToIdle_induct {P : State → Prop} (hb : ∀ s, s.busy = true → P s → P (busyTick s)) {s : State} (h : P s) :
    P (runToIdle s) := by
  unfold runToIdle
  generalize 2 * s.expansion.length + 1 = n
  induction n generalizing s with
  | zero => exact h
  | succ n ih =>
    unfold runBusy
    split
    · next hbusy => exact ih (hb s hbusy h)
    · exact h

/-- A property that reset, every tick with BUSY = 1, an idle moment and every acceptance keep is kept by every step. -/
theorem step_induct {P : State → Prop} (hr : ∀ s, P s → P (engineReset s))
    (hb : ∀ s, s.busy = true → P s → P (busyTick s)) (hi : ∀ s, P s → P (idleTick s))
    (ha : ∀ (i : Instr) (s t : State) (rest : List Word), s.busy = false → P s →
      accept i { s with offered := rest } = .next t → P t)
    {s t : State} (h : P s) (ht : step s = .next t) : P t := by
  unfold step at ht
  by_cases h0 : s.rstIn = some 0
  · simp only [resetNow, h0, decide_true, if_true] at ht
    cases ht
    exact hr s h
  · simp only [resetNow, h0, decide_false] at ht
    by_cases hbusy : s.busy = true
    · simp only [hbusy, if_true] at ht
      cases ht
      exact runToIdle_induct hb h
    · simp only [hbusy, Bool.false_eq_true, if_false] at ht
      rw [Bool.not_eq_true] at hbusy
      cases ho : s.offered with
      | nil =>
        simp only [offeredWord, ho] at ht
        cases ht
        exact hi s h
      | cons w rest =>
        simp only [offeredWord, ho, List.head?_cons, runWord, consumeWord, List.tail_cons, refuse] at ht
        cases hd : decode s.params.diagOps w with
        | reservedOpcode => simp only [hd] at ht; cases ht
        | reservedField => simp only [hd] at ht; cases ht
        | instr i =>
          simp only [hd] at ht
          rw [exec_eq_runCommand, runCommand_of_idle _ { s with offered := rest } hbusy] at ht
          cases hacc : accept i { s with offered := rest } with
          | next a =>
            rw [hacc] at ht
            cases ht
            exact runToIdle_induct hb (ha i s a rest hbusy h hacc)
          | fault f => cases f
          | refused r => rw [hacc] at ht; cases ht

end Sys2Proof.Machine
end

