-- ==== Sys2Proof/Laws/Run.lean ====
section
/-! SUPPORT. What a run does in one moment, said once: in a run that is not refused what the machine does, in a refused run
the wait for RST (60_exceptions.md R174, R175). -/

namespace Sys2Proof.Machine

@[simp] theorem runNext_on_next {move : State → Host.Outcome State Fault Refusal} {s t : State}
    (h : move s = .next t) : runNext move (.on s) = .on t := by
  simp only [runNext, h]

@[simp] theorem runNext_on_refused {move : State → Host.Outcome State Fault Refusal} {s : State} {r : Refusal}
    (h : move s = .refused r) : runNext move (.on s) = .refused r (consumeWord s) := by
  simp only [runNext, h]

@[simp] theorem runNext_refused (move : State → Host.Outcome State Fault Refusal) (r : Refusal) (s : State) :
    runNext move (.refused r s) = refusedMoment r s := rfl

/-- Everything a refused run can do in one moment: RST ends it, or the mark is kept. -/
theorem refusedMoment_cases (r : Refusal) (s : State) :
    (s.rstIn = some 0 ∧ refusedMoment r s = .on (resetAfterRefusal s)) ∨
    (s.rstIn ≠ some 0 ∧ refusedMoment r s = .refused r (idleTick s)) := by
  by_cases h : s.rstIn = some 0
  · exact .inl ⟨h, by simp only [refusedMoment, resetNow, h, decide_true, if_true]⟩
  · exact .inr ⟨h, by simp only [refusedMoment, resetNow, h, decide_false, Bool.false_eq_true, if_false]⟩

end Sys2Proof.Machine
end

