-- ==== Sys2Proof/Tests/Slice0.lean ====
section
/-! SUPPORT. Tests of the model on the spec's own vectors (95_test_vectors.md), and one witness for the hypotheses of each
statement, so that no statement is empty. Expected values are the spec's, never the model's own answers. -/

namespace Sys2Proof.Tests

open Sys2Proof Sys2Proof.Machine

/-! ### Helpers -/

/-- The outcome is a next state of which `f` is true. -/
def after (o : Host.Outcome State Fault Refusal) (f : State → Bool) : Bool :=
  match o with
  | .next t => f t
  | .fault _ => false
  | .refused _ => false

/-- The refusal that an outcome is, if it is one. -/
def refusal (o : Host.Outcome State Fault Refusal) : Option Refusal :=
  match o with
  | .next _ => none
  | .fault _ => none
  | .refused r => some r

theorem refusal_eq {o : Host.Outcome State Fault Refusal} {r : Refusal} (h : refusal o = some r) : o = .refused r := by
  cases o with
  | next t => cases h
  | fault f => cases h
  | refused q => cases h; rfl

theorem after_next {o : Host.Outcome State Fault Refusal} {f : State → Bool} (h : after o f = true) :
    ∃ t, o = .next t ∧ f t = true := by
  cases o with
  | next t => exact ⟨t, rfl, h⟩
  | fault f => cases h
  | refused r => cases h

theorem runs {o : Host.Outcome State Fault Refusal} (h : after o (fun _ => true) = true) : ∃ t, o = .next t :=
  let ⟨t, ht, _⟩ := after_next h
  ⟨t, ht⟩

/-- Quiescent and blank with `n` digits (R36), DIGIT_ON = `on`, SEG_ON the other level, brightness 50: the state the
vectors call Quiescent(CC, n) for `on = false` and its common-anode twin for `on = true`. -/
def quiet (n : Nat) (on : Bool) : State :=
  { State.reset with
    pol := if on then .commonAnode else .commonCathode
    ndig := BitVec.ofNat 3 n
    digitOn := on
    digitOff := !on
    segOn := !on
    segOff := on
    bright := 50#7
    onTime := 1000#16
    oe := { dig0 := decide (0 < n), dig1 := decide (1 < n), dig2 := decide (2 < n), dig3 := decide (3 < n),
            sdata := true, sclk := true, slatch := true }
    lvl := { dig0 := decide (0 < n) && !on, dig1 := decide (1 < n) && !on, dig2 := decide (2 < n) && !on,
             dig3 := decide (3 < n) && !on, sdata := false, sclk := false, slatch := true }
    configured := true
    brtValid := true
    srShift := 0xFF#8
    srOut := 0xFF#8 }

/-- A state in which `es` is running and nothing has begun. -/
def running (es : List Event) : State := start 5#4 es (quiet 4 false)

/-- The same state with one word at the command port. -/
def offer (s : State) (w : Word) : State := { s with offered := [w] }

/-- DIAG_OPS = false (R13). -/
def noDiag (s : State) : State := { s with params := { s.params with diagOps := false } }

/-- ROUND = NEAREST and another FRAME_PERIOD (R7, R11). -/
def nearest (fp : BitVec 16) (s : State) : State :=
  { s with params := { s.params with framePeriod := fp, round := .nearest } }

/-- VALID_PIN false for the identifier 255 (R12; vector V-I4). -/
def pin255Invalid (s : State) : State := { s with params := { s.params with invalidPins := [255#8] } }

/-- UNSUPPORTED_POLICY = DRAW (R14). -/
def drawing (s : State) : State := { s with params := { s.params with unsupported := .draw } }

/-- ON_HOLD_MODE = BIAS (R125). -/
def biased (s : State) : State := { s with params := { s.params with onHoldMode := .bias } }

/-! ### Well-formedness: for each check an ill-formed term that it refuses, beside the nearest that passes (R72, R73) -/

theorem test_wf_count : Instr.wf (.init .commonCathode 8 0#8 1#8 2#8 3#8 4#8 5#8 6#8) = false ∧
    Instr.wf (.init .commonCathode 7 0#8 1#8 2#8 3#8 4#8 5#8 6#8) = true := by decide

theorem test_wf_percent_high : Instr.wf (.setbrt 32768) = false ∧ Instr.wf (.setbrt 32767) = true := by decide

theorem test_wf_percent_low : Instr.wf (.setbrt (-32769)) = false ∧ Instr.wf (.setbrt (-32768)) = true := by decide

/-- R53: a SUPPORTED that lacks the dash, an empty one, and a blank that lights seven segments are no table of this
hardware's; R7: nor is FRAME_PERIOD = 0. -/
theorem test_wf_table :
    tableWf Params.default [] = true ∧
    tableWf { Params.default with supported := defaultSupported.dropLast } [] = false ∧
    tableWf { Params.default with supported := [] } [] = false ∧
    tableWf Params.default (Memory.write [] 0x20 0x7F#8) = false ∧
    tableWf { Params.default with framePeriod := 0#16 } [] = false := by decide

/-! ### Decoding, on words written out field by field from R70 to R75 -/

/-- V-E3: opcode 1, pol 1, n 2, d0 6, d1 7, d2 0, d3 0, data 11, clk 12, latch 13. -/
theorem test_decode_init :
    decode true
      0b0001101000000110000001110000000000000000000010110000110000001101#64 =
      .instr (.init .commonAnode 2 6#8 7#8 0#8 0#8 11#8 12#8 13#8) := by decide

/-- The INIT of V-I3 with digit count 5: R105 refuses it, the decoder does not. -/
theorem test_decode_init_count :
    decode true 0x150203040508090A#64 = .instr (.init .commonCathode 5 2#8 3#8 4#8 5#8 8#8 9#8 10#8) := by decide

/-- Opcode 2, reserved 0, percent 0x8000: the most negative percent (R76, V-B10). -/
theorem test_decode_setbrt :
    decode true
      0b0010000000000000000000000000000000000000000000001000000000000000#64 = .instr (.setbrt (-32768)) := by decide

/-- V-E9: opcode 3, reserved 0, "3141", dpmask 0xFF. -/
theorem test_decode_render :
    decode true
      0b0011000000000000000000000011001100110001001101000011000111111111#64 =
      .instr (.render 0x33#8 0x31#8 0x34#8 0x31#8 0xFF#8) := by decide

/-- V-E10: opcode 4, reserved 0, byte 0xA5; reserved when DIAG_OPS is false (R77). -/
theorem test_decode_shout :
    decode true 0b0100000000000000000000000000000000000000000000000000000010100101#64 = .instr (.shout 0xA5#8) ∧
    decode false 0b0100000000000000000000000000000000000000000000000000000010100101#64 = .reservedOpcode := by decide

/-- V-E11 and V-E16: opcode 5, byte 0xFF; bit 8 is reserved. -/
theorem test_decode_shwr :
    decode true 0b0101000000000000000000000000000000000000000000000000000011111111#64 = .instr (.shwr 0xFF#8) ∧
    decode true 0b0101000000000000000000000000000000000000000000000000000111111111#64 = .reservedField := by decide

/-- Opcodes 0, 6 and 15 and the highest reserved bit of each format (R77, R78). -/
theorem test_decode_reserved :
    decode true 0#64 = .reservedOpcode ∧ decode true 0x6000000000000000#64 = .reservedOpcode ∧
    decode true 0xF000000000000000#64 = .reservedOpcode ∧ decode true 0x2800000000000032#64 = .reservedField ∧
    decode true 0x3800003331343100#64 = .reservedField ∧ decode true 0x4800000000000000#64 = .reservedField ∧
    decode true 0x5800000000000000#64 = .reservedField := by decide

/-- The table's numbering: bit 0 is the least significant bit of the word (R16). -/
theorem test_decode_table_word :
    decodeTableWord 64 0x300000412D000000 = some (.render 0x41#8 0x2D#8 0#8 0#8 0#8) ∧
    decodeTableWord 64 0x6000000000000000 = none := by decide

/-- V-E1 in bytes, the byte of bits 63 to 56 first (R55 (c)), with one byte of the next word after it. -/
theorem test_decode_bytes :
    decodeBytes true [0x14#8, 0x02#8, 0x03#8, 0x04#8, 0x05#8, 0x08#8, 0x09#8, 0x0A#8, 0x20#8] =
      .word (.instr (.init .commonCathode 4 2#8 3#8 4#8 5#8 8#8 9#8 10#8)) [0x20#8] := by decide

/-! ### One step of each command -/

set_option maxRecDepth 100000 in
/-- V-I1. -/
theorem test_init_common_cathode :
    after (step (State.reset.withFetchWord 64 0x140203040508090A)) (fun t =>
      decide (t.trace =
        [.pinLevel .dig0 true, .pinDir .dig0, .pinLevel .dig1 true, .pinDir .dig1, .pinLevel .dig2 true,
         .pinDir .dig2, .pinLevel .dig3 true, .pinDir .dig3, .pinDir .sdata, .pinDir .sclk, .pinDir .slatch,
         .pinLevel .sdata false, .pinLevel .sclk false] ++ shiftWrite 0xFF#8 ∧ t.trace.length = 48 ∧
        t.digitOn = false ∧ t.digitOff = true ∧ t.segOn = true ∧ t.segOff = false ∧ t.ndig = 4#3 ∧
        t.digpin = { b0 := 2#8, b1 := 3#8, b2 := 4#8, b3 := 5#8 } ∧ t.pinLatch = 10#8 ∧ Quiescent t ∧
        t.srShift = 0xFF#8 ∧ t.srOut = 0xFF#8 ∧ t.configured = true ∧ t.brtValid = false)) = true := by decide

set_option maxRecDepth 100000 in
/-- V-I3 and V-I4: each refusal of INIT, and an accepted word whose unused fields are equal and invalid. -/
theorem test_init_refusals :
    refusal (step (State.reset.withFetchWord 64 0x100203040508090A)) = some (.badDigitCount 0x100203040508090A#64) ∧
    refusal (step (State.reset.withFetchWord 64 0x150203040508090A)) = some (.badDigitCount 0x150203040508090A#64) ∧
    refusal (step (State.reset.withFetchWord 64 0x140203040508080A)) = some (.pinsNotDistinct 0x140203040508080A#64) ∧
    refusal (step ((quiet 4 false).withFetchWord 64 0x150203040508090A)) =
      some (.alreadyConfigured 0x150203040508090A#64) ∧
    refusal (step ((pin255Invalid State.reset).withFetchWord 64 0x14020304050809FF)) =
      some (.invalidPin 0x14020304050809FF#64) ∧
    after (step ((pin255Invalid State.reset).withFetchWord 64 0x120203FFFF08090A))
      (fun t => t.configured) = true := by decide

/-- V-B25 and V-B9: SETBRT from reset. -/
theorem test_setbrt_from_reset :
    after (step (State.reset.withFetchWord 64 0x2000000000000032)) (fun t =>
      decide (t.bright = 50#7 ∧ t.onTime = 1000#16 ∧ t.brtValid = true ∧ t.configured = false ∧ t.trace = [])) = true ∧
    after (exec (.setbrt (-1)) State.reset) (fun t => decide (t.bright = 0#7 ∧ t.onTime = 0#16)) = true := by decide

/-- V-B8, V-B14 and V-B23: clamping, and rounding to nearest. -/
theorem test_setbrt_rounding :
    after (exec (.setbrt 32767) State.reset) (fun t => decide (t.bright = 100#7 ∧ t.onTime = 2000#16)) = true ∧
    after (exec (.setbrt 99) (nearest 1999#16 State.reset)) (fun t => decide (t.onTime = 1979#16)) = true ∧
    after (exec (.setbrt 50) (nearest 65535#16 State.reset)) (fun t => decide (t.onTime = 32768#16)) = true := by decide

set_option maxRecDepth 100000 in
/-- V-R7: common-anode, one digit, ON_TIME 660, the text "8". -/
theorem test_render_common_anode :
    after (step ({ quiet 1 true with onTime := 660#16 }.withFetchWord 64 0x3000003800000000)) (fun t =>
      decide (t.trace = [.pinLevel .dig0 true, .memRead 0x38#8 0x7F#8] ++ shiftWrite 0x80#8 ++ [.wait 660] ++
        shiftWrite 0xFF#8 ++ [.pinLevel .dig0 false, .wait 1340] ∧ Quiescent t ∧ t.srOut = 0xFF#8)) = true := by decide

set_option maxRecDepth 100000 in
/-- V-R8: the refusals of RENDER. -/
theorem test_render_refusals :
    refusal (step (State.reset.withFetchWord 64 0x3000003331343100)) = some (.notConfigured 0x3000003331343100#64) ∧
    refusal (step ({ quiet 4 false with brtValid := false }.withFetchWord 64 0x3000003331343100)) =
      some (.brightnessUnwritten 0x3000003331343100#64) := by decide

set_option maxRecDepth 100000 in
/-- V-SO4. -/
theorem test_shout :
    after (exec (.shout 0xA5#8) { quiet 1 false with srShift := 0x3C#8, srOut := 0x5A#8 }) (fun t =>
      decide (t.srShift = 0xA5#8 ∧ t.srOut = 0x5A#8 ∧ t.lvl.sclk = false ∧ t.lvl.sdata = false ∧
        t.lvl.slatch = true ∧ t.trace.length = 33)) = true := by decide

set_option maxRecDepth 100000 in
/-- V-SO4: SR_SHIFT after each of the eight rising edges, which are events 3, 7, ... 31. -/
theorem test_shout_edges :
    ([3, 7, 11, 15, 19, 23, 27, 31].map fun k =>
      (performAll ((shiftOut 0xA5#8).take k) { quiet 1 false with srShift := 0x3C#8 }).srShift) =
      [0x79#8, 0xF2#8, 0xE5#8, 0xCA#8, 0x94#8, 0x29#8, 0x52#8, 0xA5#8] := by decide

set_option maxRecDepth 100000 in
/-- P3, command 3, and V-SW4. -/
theorem test_shwr :
    after (step ((quiet 1 false).withFetchWord 64 0x5000000000000080)) (fun t =>
      decide (t.srShift = 0x80#8 ∧ t.srOut = 0x80#8 ∧ t.lvl.slatch = true ∧ t.trace.length = 35)) = true ∧
    refusal (step (State.reset.withFetchWord 64 0x50000000000000FF)) = some (.notConfigured 0x50000000000000FF#64) ∧
    refusal (step ((noDiag (quiet 1 false)).withFetchWord 64 0x50000000000000FF)) =
      some (.reservedOpcode 0x50000000000000FF#64) := by decide

set_option maxRecDepth 100000 in
/-- P4 and R175: RENDER from reset marks the run refused with an empty trace, a word offered then is not taken, and RST
leads to a run that is on, unconfigured and idle. -/
theorem test_refused_run :
    (match runStep (.on (offer State.reset 0x3000003331343100#64)) with
      | .refused r s => decide (r = .notConfigured 0x3000003331343100#64 ∧ s.trace = []) &&
          (match runStep (.refused r (offer s (encode (.setbrt 1)))) with
            | .refused q u => decide (q = r ∧ u.brtValid = false ∧ u.offered = [encode (.setbrt 1)])
            | .on _ => false) &&
          (match runStep (.refused r { s with rstIn := some 0 }) with
            | .on t => decide (t.configured = false ∧ t.busy = false ∧ t.oe = RoleBits.zero ∧ t.trace = [])
            | .refused _ _ => false)
      | .on _ => false) = true := by decide

/-- R217: four digits at 2000 microseconds give at most 125 passes per second, and three give 500/3. -/
theorem test_max_passes :
    maxPassesPerSecond (quiet 4 false) = 125 ∧ maxPassesPerSecond (quiet 3 false) = 500 / 3 := by
  rw [maxPassesPerSecond, maxPassesPerSecond,
    show (quiet 4 false).ndig.toNat * (quiet 4 false).params.framePeriod.toNat = 8000 by decide,
    show (quiet 3 false).ndig.toNat * (quiet 3 false).params.framePeriod.toNat = 6000 by decide]
  norm_num

/-! ### Witnesses: for each statement with hypotheses, values that meet all of them, clause by clause -/

/-- The INIT of V-I1. -/
def initV1 : Instr := .init .commonCathode 4 2#8 3#8 4#8 5#8 8#8 9#8 10#8

/-- The INIT of V-I2. -/
def initV2 : Instr := .init .commonAnode 1 7#8 0#8 0#8 0#8 11#8 12#8 13#8

theorem witness_EncodedCommandDecodesBack :
    (Instr.wf (.shwr 0xFF#8) = true ∧ (true = true ∨ (opcodeOf (.shwr 0xFF#8)).toNat ≤ 3)) ∧
    (Instr.wf (.setbrt (-32768)) = true ∧ (false = true ∨ (opcodeOf (.setbrt (-32768))).toNat ≤ 3)) ∧
    (Instr.wf (.init .commonAnode 7 255#8 0#8 0#8 0#8 0#8 0#8 255#8) = true) := by decide

theorem witness_DecodedWordIsItsEncoding :
    decode true 0x5000000000000000#64 = .instr (.shwr 0#8) ∧
    decode false 0x300000FFFFFFFFFF#64 = .instr (.render 0xFF#8 0xFF#8 0xFF#8 0xFF#8 0xFF#8) := by decide

/-- A word that selects no command (opcode 15; opcode 4 without DIAG_OPS), a command with a reserved bit (the lowest and
the highest of format B), a command. -/
theorem witness_ReservedWordsAreRefused :
    ((offer State.reset 0xF000000000000000#64).busy = false ∧
      (offer State.reset 0xF000000000000000#64).rstIn ≠ some 0 ∧
      (offer State.reset 0xF000000000000000#64).offered = 0xF000000000000000#64 :: []) ∧
    (opcodeField 0xF000000000000000#64).toNat = 15 ∧
    ((noDiag State.reset).params.diagOps = false ∧ (opcodeField 0x4000000000000000#64).toNat = 4) ∧
    ((opcodeField 0x2000000000010000#64).toNat = 2 ∧
      (0x2000000000010000#64 : Word).extractLsb' 16 44 ≠ 0#44) ∧
    ((opcodeField 0x2800000000000000#64).toNat = 2 ∧
      (0x2800000000000000#64 : Word).extractLsb' 16 44 ≠ 0#44) ∧
    ((opcodeField 0x300000FFFFFFFFFF#64).toNat = 3 ∧
      (0x300000FFFFFFFFFF#64 : Word).extractLsb' 40 20 = 0#20) := by decide

theorem witness_WordBytesGoMostSignificantFirst :
    ([] : List Byte).length < 8 ∧ [1#8, 2#8, 3#8, 4#8, 5#8, 6#8, 7#8].length < 8 := by decide

/-- RST in a run; a tick and a step that go on, and ones that are refused; a refused run with RST away, one tick off, now. -/
theorem witness_RstResetsTheEngineAlone :
    { quiet 4 false with rstIn := some 0 }.rstIn = some 0 ∧
    (∃ t, step State.reset = .next t) ∧ (∃ t, tick State.reset = .next t) ∧
    step (offer State.reset 0#64) = .refused (.reservedOpcode 0#64) ∧
    tick (offer State.reset 0#64) = .refused (.reservedOpcode 0#64) ∧
    State.reset.rstIn = none ∧ { State.reset with rstIn := some 1 }.rstIn = some (0 + 1) :=
  ⟨by decide, runs (by decide), runs (by decide), refusal_eq (by decide), refusal_eq (by decide), by decide, by decide⟩

theorem witness_IdleEngineWaitsForACommand : Ready State.reset ∧ State.reset.offered = [] := by decide

theorem witness_StepRunsTheDecodedCommand :
    (offer State.reset (encode initV1)).busy = false ∧ (offer State.reset (encode initV1)).rstIn ≠ some 0 ∧
    (offer State.reset (encode initV1)).offered = encode initV1 :: [] ∧
    decode (offer State.reset (encode initV1)).params.diagOps (encode initV1) = .instr initV1 := by decide

theorem witness_BusyEngineMakesTheWordWait :
    (running (shiftOut 0xA5#8)).busy = true ∧ (running (shiftOut 0xA5#8)).rstIn ≠ some 0 := by decide

/-- For each command a state in which it is acceptable and, but for SETBRT, one in which it is not. -/
theorem witness_CommandsCompleteExactlyWhenAcceptable :
    State.reset.busy = false ∧ (quiet 4 false).busy = false ∧ State.reset.rstIn = none ∧
    acceptable initV1 State.reset = true ∧ acceptable initV1 (quiet 4 false) = false ∧
    acceptable (.setbrt (-1)) State.reset = true ∧
    acceptable (.render 0x33#8 0#8 0#8 0#8 0#8) (quiet 4 false) = true ∧
    acceptable (.render 0x33#8 0#8 0#8 0#8 0#8) State.reset = false ∧
    acceptable (.shout 1#8) (quiet 1 true) = true ∧ acceptable (.shout 1#8) State.reset = false ∧
    acceptable (.shwr 1#8) (quiet 1 true) = true ∧ acceptable (.shwr 1#8) (noDiag (quiet 1 true)) = false := by decide

set_option maxRecDepth 100000 in
theorem witness_StepIsARunOfTicks :
    (∃ t, step (offer State.reset (encode initV1)) = .next t) ∧
    step (offer State.reset 0#64) = .refused (.reservedOpcode 0#64) ∧
    tick (offer State.reset 0#64) = .refused (.reservedOpcode 0#64) :=
  ⟨runs (by decide), refusal_eq (by decide), refusal_eq (by decide)⟩

/-- An event in the middle, and the last; a ROM read and a direction. -/
theorem witness_TickPerformsEventNumberUpc :
    let s := running (shiftOut 0xA5#8)
    let u := { running (shiftOut 0xA5#8) with upc := 32 }
    (s.busy = true ∧ s.rstIn = none ∧ s.hold = 0#16 ∧ s.expansion[s.upc]? = some (.pinLevel .sclk false) ∧
      (∀ n, Event.pinLevel .sclk false ≠ .wait n) ∧ s.upc + 1 < s.expansion.length) ∧
    (u.busy = true ∧ u.rstIn = none ∧ u.hold = 0#16 ∧ u.expansion[u.upc]? = some (.pinLevel .sclk false) ∧
      u.upc + 1 = u.expansion.length) ∧
    (running [.memRead 0x31#8 0x06#8]).expansion[(running [.memRead 0x31#8 0x06#8]).upc]? =
      some (.memRead 0x31#8 0x06#8) ∧
    (running [.pinDir .sclk]).expansion[(running [.pinDir .sclk]).upc]? = some (.pinDir .sclk) := by
  refine ⟨⟨by decide, by decide, by decide, by decide, ?_, by decide⟩, by decide, by decide, by decide⟩
  intro n h
  cases h

/-- A wait of 0, of 1 and of 65535 microseconds, with an event after it and as the last. -/
theorem witness_WaitLoadsTheHoldTimer :
    ∀ n ∈ [0, 1, 65535],
      (let s := running [.wait n, .pinLevel .sclk false]
       s.busy = true ∧ s.rstIn = none ∧ s.hold = 0#16 ∧ s.expansion[s.upc]? = some (.wait n) ∧
       s.upc + 1 < s.expansion.length ∧ n < 65536) ∧
      (let s := running [.wait n]
       s.busy = true ∧ s.rstIn = none ∧ s.hold = 0#16 ∧ s.expansion[s.upc]? = some (.wait n) ∧
       s.upc + 1 = s.expansion.length ∧ n < 65536) := by decide

set_option maxRecDepth 100000 in
/-- RST at the first event of a SHOUT, where no hold has come yet; at the last tick of a RENDER of one digit, in its
off-hold; and one tick later, when the command is complete. -/
theorem witness_RstAbandonsTheCommand :
    (∃ a, accept (.shout 0xA5#8) { quiet 4 false with rstIn := some 0 } = .next a ∧
      (a.busy && decide (0 < ticksOf a.expansion)) = true) ∧
    (∀ e ∈ (shiftOut 0xA5#8).take 0, ∀ n, e ≠ .wait n) ∧
    (∃ a, accept (.render 0x31#8 0#8 0#8 0#8 0#8) { quiet 1 false with rstIn := some 76 } = .next a ∧
      (a.busy && decide (76 < ticksOf a.expansion)) = true) ∧
    (∃ a, accept (.render 0x31#8 0#8 0#8 0#8 0#8) { quiet 1 false with rstIn := some 77 } = .next a ∧
      (a.busy && decide (a.expansion ≠ [] ∧ ticksOf a.expansion ≤ 77)) = true) := by
  refine ⟨after_next (by decide), ?_, after_next (by decide), after_next (by decide)⟩
  intro e h
  cases h

theorem witness_SetbrtSetsBrightness :
    State.reset.busy = false ∧ State.reset.params.round = .floor ∧
    (nearest 1#16 State.reset).busy = false ∧ (nearest 1#16 State.reset).params.round = .nearest := by decide

/-- The percents where the clauses meet: -1, 0, 100 and 101. -/
theorem witness_PercentIsClamped :
    (-1 : Int) < 0 ∧ ((0 : Int) ≤ 0 ∧ (0 : Int) ≤ 100) ∧ ((0 : Int) ≤ 100 ∧ (100 : Int) ≤ 100) ∧ (100 : Int) < 101 := by
  decide

theorem witness_BrightnessMapLaws : 0 ≤ 100 ∧ 100 ≤ 100 ∧ (100 ∣ 100 * (65535#16 : BitVec 16).toNat) := by decide

/-- For each outcome of INIT a state and operands: n is 0 and 5 for BadDigitCount, 1 and 4 for the others. -/
theorem witness_InitTestsInOrder :
    (quiet 4 false).busy = false ∧ (quiet 4 false).configured = true ∧
    State.reset.busy = false ∧ State.reset.configured = false ∧ ¬ (1 ≤ 0 ∧ 0 ≤ 4) ∧ ¬ (1 ≤ 5 ∧ 5 ≤ 4) ∧
    (¬ ∀ p ∈ List.take 1 [255#8, 0#8, 0#8, 0#8] ++ [8#8, 9#8, 10#8],
      (pin255Invalid State.reset).params.validPin p = true) ∧
    (∀ p ∈ List.take 1 [8#8, 0#8, 0#8, 0#8] ++ [8#8, 9#8, 10#8], State.reset.params.validPin p = true) ∧
    ¬ (List.take 1 [8#8, 0#8, 0#8, 0#8] ++ [8#8, 9#8, 10#8]).Nodup ∧
    (∀ p ∈ List.take 4 [2#8, 3#8, 4#8, 5#8] ++ [8#8, 9#8, 10#8], State.reset.params.validPin p = true) ∧
    (List.take 4 [2#8, 3#8, 4#8, 5#8] ++ [8#8, 9#8, 10#8]).Nodup := by decide

theorem witness_InitConfiguresAndBlanks :
    Ready State.reset ∧ acceptable initV1 State.reset = true ∧ acceptable initV2 State.reset = true := by decide

set_option maxRecDepth 100000 in
theorem witness_InitNeverFlashesADigit :
    Undriven State.reset ∧ (∃ a, accept initV1 State.reset = .next a) ∧ ∃ a, accept initV2 State.reset = .next a :=
  ⟨by decide, runs (by decide), runs (by decide)⟩

set_option maxRecDepth 100000 in
theorem witness_PinMapIsInjectiveAfterInit :
    Ready State.reset ∧ (∃ t, exec initV1 State.reset = .next t) ∧ ∃ t, exec initV2 State.reset = .next t :=
  ⟨by decide, runs (by decide), runs (by decide)⟩

set_option maxRecDepth 100000 in
theorem witness_DefaultLevelsByMode :
    Ready State.reset ∧ State.reset.params.levels = LevelTable.default ∧
    (∃ t, exec initV1 State.reset = .next t) ∧ ∃ t, exec initV2 State.reset = .next t :=
  ⟨by decide, by decide, runs (by decide), runs (by decide)⟩

theorem witness_DiagnosticsTestInOrder :
    (noDiag State.reset).busy = false ∧ (noDiag State.reset).params.diagOps = false ∧
    State.reset.busy = false ∧ State.reset.params.diagOps = true ∧ State.reset.configured = false := by decide

theorem witness_ShoutShiftsWithoutLatching :
    Ready (quiet 1 true) ∧ (quiet 1 true).params.diagOps = true ∧ (quiet 1 true).configured = true ∧
    SerialDriven (quiet 1 true) := by decide

theorem witness_ShwrLatchesItsByte :
    Ready (quiet 4 false) ∧ (quiet 4 false).params.diagOps = true ∧ (quiet 4 false).configured = true ∧
    SerialDriven (quiet 4 false) := by decide

/-- The ends of the range in which the latch is low, and the first count past it. -/
theorem witness_LatchIsLowWhileShifting : (1 ≤ 1 ∧ 1 ≤ 34) ∧ (1 ≤ 34 ∧ 34 ≤ 34) ∧ 35 ≤ 35 := by decide

theorem witness_OutputsChangeOnlyAtTheLatch : 0 ≤ 34 ∧ 34 ≤ 34 ∧ 35 ≤ 35 ∧ SerialDriven (quiet 1 false) := by decide

theorem witness_DataLineIsLowBetweenCells :
    0 < 8 ∧ 7 < 8 ∧ (1 ≤ 7 ∨ State.reset.lvl.sdata = false) ∧ (1 ≤ 0 ∨ State.reset.lvl.sdata = false) := by decide

/-- A clock edge that shifts, and three events that do not. -/
theorem witness_ShiftStageMovesOnClockEdgesAlone :
    ((quiet 1 false).oe.sclk = true ∧ (quiet 1 false).lvl.sclk = false ∧ (quiet 1 false).oe.sdata = true) ∧
    (0 < 7 ∧ 6 < 7) ∧
    ¬ (Event.pinLevel .sclk false = .pinLevel .sclk true) ∧ ¬ (State.reset.oe.sclk = true) := by decide

theorem witness_RenderTestsInOrder :
    State.reset.busy = false ∧ State.reset.configured = false ∧
    { quiet 4 false with brtValid := false }.busy = false ∧
    { quiet 4 false with brtValid := false }.configured = true ∧
    { quiet 4 false with brtValid := false }.brtValid = false := by decide

/-- One digit under DRAW and four under BLANK; a supported code and one that is not. -/
theorem witness_RenderPerformsOnePass :
    (Ready (quiet 4 false) ∧ (quiet 4 false).configured = true ∧ (quiet 4 false).brtValid = true ∧
      SerialDriven (quiet 4 false) ∧ 1 ≤ (quiet 4 false).ndig.toNat ∧
      (quiet 4 false).params.unsupported = .blank) ∧
    (Ready (drawing (quiet 1 true)) ∧ (drawing (quiet 1 true)).configured = true ∧
      (drawing (quiet 1 true)).brtValid = true ∧ SerialDriven (drawing (quiet 1 true)) ∧
      1 ≤ (drawing (quiet 1 true)).ndig.toNat ∧ (drawing (quiet 1 true)).params.unsupported = .draw) ∧
    (0x31#8 : Byte) ∈ (quiet 4 false).params.supported ∧ ¬ ((0x78#8 : Byte) ∈ (quiet 4 false).params.supported) := by
  decide

theorem witness_OnHoldHasAMinimum :
    State.reset.params.onHoldMode = .clamp ∧ (biased State.reset).params.onHoldMode = .bias := by decide

theorem witness_RenderIsIdempotent :
    (Operating (quiet 4 false) ∧ Blank (quiet 4 false) ∧ (quiet 4 false).brtValid = true ∧
      (quiet 4 false).params.unsupported = .blank) ∧
    (Operating (drawing (quiet 1 true)) ∧ Blank (drawing (quiet 1 true)) ∧
      ∀ i : Fin 4, i.val < (drawing (quiet 1 true)).ndig.toNat →
        (FourBytes.get { b0 := 0x31#8, b1 := 0x78#8, b2 := 0x78#8, b3 := 0x78#8 } i) ∈
          (drawing (quiet 1 true)).params.supported) := by decide

set_option maxRecDepth 100000 in
/-- An accepted RENDER, and the split of its expansion at the closing of the one digit. -/
theorem witness_OneWindowForEachDigit :
    LevelsInverse (quiet 1 true) ∧
    ∃ a, accept (.render 0x31#8 0#8 0#8 0#8 0#8) (quiet 1 true) = .next a ∧
      decide (a.expansion = a.expansion.take 73 ++ [.pinLevel (digitRole 0) (quiet 1 true).digitOff] ++
        a.expansion.drop 74) = true :=
  ⟨by decide, after_next (by decide)⟩

set_option maxRecDepth 100000 in
/-- For the statements about an accepted RENDER from an operating state, with the first digit and the last. -/
theorem witness_OnHoldShowsTheGlyph :
    Operating (quiet 4 false) ∧ (quiet 4 false).params.onHoldMode = .clamp ∧
    (∃ a, accept (.render 0x33#8 0x31#8 0x34#8 0x31#8 0#8) (quiet 4 false) = .next a) ∧
    (0 : Fin 4).val < (quiet 4 false).ndig.toNat ∧ (3 : Fin 4).val < (quiet 4 false).ndig.toNat :=
  ⟨by decide, by decide, runs (by decide), by decide, by decide⟩

set_option maxRecDepth 100000 in
theorem witness_OffHoldIsDark :
    Operating (quiet 1 true) ∧ (∃ a, accept (.render 0x38#8 0#8 0#8 0#8 0#8) (quiet 1 true) = .next a) ∧
    (0 : Fin 4).val < (quiet 1 true).ndig.toNat :=
  ⟨by decide, runs (by decide), by decide⟩

set_option maxRecDepth 100000 in
/-- With the events before step 3 ends, those up to the blanking, and the whole pass. -/
theorem witness_NothingIsLitOutsideTheGlyph :
    Operating (quiet 1 false) ∧ Blank (quiet 1 false) ∧ (quiet 1 false).params.allOff = 0xFF#8 ∧
    ∃ a, accept (.render 0x38#8 0#8 0#8 0#8 0#8) (quiet 1 false) = .next a ∧
      decide (36 ≤ a.expansion.length ∧ 37 ≤ a.expansion.length ∧ 72 ≤ a.expansion.length ∧
        75 ≤ a.expansion.length) = true :=
  ⟨by decide, by decide, by decide, after_next (by decide)⟩

set_option maxRecDepth 100000 in
/-- The state P3 leaves after its command 3: the register holds the glyph of 8. -/
theorem witness_StaleByteShowsOnDigitZero :
    Operating { quiet 1 false with srShift := 0x80#8, srOut := 0x80#8 } ∧
    (∃ a, accept (.render 0x31#8 0#8 0#8 0#8 0#8) { quiet 1 false with srShift := 0x80#8, srOut := 0x80#8 } =
      .next a) ∧
    (1 ≤ 1 ∧ 1 ≤ 36) ∧ (1 ≤ 36 ∧ 36 ≤ 36) :=
  ⟨by decide, runs (by decide), by decide, by decide⟩

/-- V-R6: two digits, texts that differ in the third and the fourth slot. -/
theorem witness_MaskAndUnusedSlotsHaveNoEffect :
    Ready (quiet 2 false) ∧ (quiet 2 false).configured = true ∧ (quiet 2 false).brtValid = true ∧
    ∀ i : Fin 4, i.val < (quiet 2 false).ndig.toNat →
      FourBytes.get { b0 := 0x41#8, b1 := 0x2D#8, b2 := 0#8, b3 := 0#8 } i =
        FourBytes.get { b0 := 0x41#8, b1 := 0x2D#8, b2 := 0x5A#8, b3 := 0x5A#8 } i := by decide

/-- One digit and an ON_TIME. -/
def timed (t : BitVec 16) : State := { quiet 1 false with onTime := t }

set_option maxRecDepth 100000 in
/-- ON_TIME = 0, 1 and FRAME_PERIOD. -/
theorem witness_WaitsOfAPass :
    (CountLegal (timed 0#16) ∧ (timed 0#16).onTime.toNat ≤ (timed 0#16).params.framePeriod.toNat ∧
      (timed 0#16).params.onHoldMode = .clamp ∧ (timed 0#16).onTime.toNat = 0 ∧
      1 ≤ (timed 0#16).params.framePeriod.toNat ∧
      ∃ a, accept (.render 0x31#8 0#8 0#8 0#8 0#8) (timed 0#16) = .next a) ∧
    (CountLegal (timed 1#16) ∧ 1 ≤ (timed 1#16).onTime.toNat ∧
      ∃ a, accept (.render 0x31#8 0#8 0#8 0#8 0#8) (timed 1#16) = .next a) ∧
    (CountLegal (timed 2000#16) ∧ (timed 2000#16).onTime.toNat ≤ (timed 2000#16).params.framePeriod.toNat ∧
      ∃ a, accept (.render 0x31#8 0#8 0#8 0#8 0#8) (timed 2000#16) = .next a) :=
  ⟨⟨by decide, by decide, by decide, by decide, by decide, runs (by decide)⟩,
    ⟨by decide, by decide, runs (by decide)⟩, by decide, by decide, runs (by decide)⟩

set_option maxRecDepth 100000 in
theorem witness_EventCountsOfCommands :
    (∃ a, accept initV1 State.reset = .next a) ∧ (∃ a, accept (.setbrt 50) State.reset = .next a) ∧
    (∃ a, accept (.shout 0xA5#8) (quiet 1 false) = .next a) ∧
    ∃ a, accept (.shwr 0xA5#8) (quiet 1 false) = .next a :=
  ⟨runs (by decide), runs (by decide), runs (by decide), runs (by decide)⟩

set_option maxRecDepth 100000 in
theorem witness_ShiftCommandsFrame :
    Ready (quiet 1 false) ∧ (∃ t, exec (.shout 0xA5#8) (quiet 1 false) = .next t) ∧
    ∃ t, exec (.shwr 0xA5#8) (quiet 1 false) = .next t :=
  ⟨by decide, runs (by decide), runs (by decide)⟩

set_option maxRecDepth 100000 in
/-- With one digit, so that digits 1 and 3 are beyond the count. -/
theorem witness_RenderFrame :
    Ready (quiet 1 false) ∧ (∃ t, exec (.render 0x31#8 0#8 0#8 0#8 0#8) (quiet 1 false) = .next t) ∧
    (quiet 1 false).ndig.toNat ≤ (1 : Fin 4).val ∧ (quiet 1 false).ndig.toNat ≤ (3 : Fin 4).val :=
  ⟨by decide, runs (by decide), by decide, by decide⟩

set_option maxRecDepth 100000 in
theorem witness_RegistersHaveOneWriter :
    Ready (quiet 1 false) ∧ (∃ t, exec (.shout 1#8) (quiet 1 false) = .next t) ∧
    (quiet 1 false).configured = true ∧ (quiet 1 false).brtValid = true ∧
    (∀ pol n d0 d1 d2 d3 data clk latch, Instr.shout 1#8 ≠ .init pol n d0 d1 d2 d3 data clk latch) ∧
    ∀ p, Instr.shout 1#8 ≠ .setbrt p := by
  refine ⟨by decide, runs (by decide), by decide, by decide, ?_, ?_⟩
  · intro _ _ _ _ _ _ _ _ _ h
    cases h
  · intro _ h
    cases h

set_option maxRecDepth 100000 in
theorem witness_OutputsStayEnabled :
    Ready (quiet 1 false) ∧ (∃ t, exec (.setbrt 1) (quiet 1 false) = .next t) ∧
    (quiet 1 false).oe.get .dig0 = true ∧
    (∀ pol n d0 d1 d2 d3 data clk latch, Instr.setbrt 1 ≠ .init pol n d0 d1 d2 d3 data clk latch) ∧
    Ready State.reset ∧ ∃ t, exec initV2 State.reset = .next t := by
  refine ⟨by decide, runs (by decide), by decide, ?_, by decide, runs (by decide)⟩
  intro _ _ _ _ _ _ _ _ _ h
  cases h

set_option maxRecDepth 100000 in
theorem witness_BlankRegisterIsRestored :
    (Ready State.reset ∧ (State.reset.configured = true → SerialDriven State.reset ∧ 1 ≤ State.reset.ndig.toNat) ∧
      ∃ t, exec initV2 State.reset = .next t) ∧
    (Ready (quiet 1 true) ∧ ((quiet 1 true).configured = true → SerialDriven (quiet 1 true) ∧
        1 ≤ (quiet 1 true).ndig.toNat) ∧ Blank (quiet 1 true) ∧
      (∃ t, exec (.render 0x31#8 0#8 0#8 0#8 0#8) (quiet 1 true) = .next t) ∧
      (∃ t, exec (.shwr (quiet 1 true).params.allOff) (quiet 1 true) = .next t) ∧
      ∃ t, exec (.setbrt 1) (quiet 1 true) = .next t) :=
  ⟨⟨by decide, by decide, runs (by decide)⟩, by decide, by decide, by decide, runs (by decide), runs (by decide),
    runs (by decide)⟩

set_option maxRecDepth 100000 in
theorem witness_GlyphRomIsImmutable :
    (∃ t, step (offer State.reset (encode initV1)) = .next t) ∧
    (∃ t, tick { quiet 1 false with rstIn := some 0 } = .next t) ∧ (quiet 1 false).mem.wf = true ∧
    tableWf (quiet 1 false).params (quiet 1 false).mem = true :=
  ⟨runs (by decide), runs (by decide), by decide, by decide⟩

theorem witness_StepKeepsBrightnessLegal :
    BrightnessLegal (quiet 1 false) ∧
    (∃ t, step (offer (quiet 1 false) (encode (.setbrt 100))) = .next t) ∧
    ∃ t, tick (offer (quiet 1 false) (encode (.setbrt 0))) = .next t :=
  ⟨by decide, runs (by decide), runs (by decide)⟩

/-- Coherent states of the three kinds: during a command, idle and configured, idle and unconfigured. -/
theorem witness_TickKeepsPinsCoherent :
    (Coherent (running [.wait 5]) ∧ ∃ t, tick (running [.wait 5]) = .next t) ∧
    (Coherent (offer (quiet 4 false) (encode (.setbrt 1))) ∧
      ∃ t, tick (offer (quiet 4 false) (encode (.setbrt 1))) = .next t) ∧
    (Coherent (offer State.reset (encode (.setbrt 1))) ∧
      ∃ t, tick (offer State.reset (encode (.setbrt 1))) = .next t) := by
  refine ⟨⟨?_, runs (by decide)⟩, ⟨?_, runs (by decide)⟩, ⟨?_, runs (by decide)⟩⟩
  · rw [Coherent, if_pos (by decide)]
    refine ⟨by decide, by decide, by decide, by decide, ?_, by decide⟩
    intro k
    cases k with
    | zero => decide
    | succ k =>
      have h : List.take (k + 1) (remaining (running [.wait 5])) = [.wait 5] := by
        rw [show remaining (running [.wait 5]) = [.wait 5] by decide, List.take_succ_cons, List.take_nil]
      rw [h]
      decide
  · rw [Coherent, if_neg (by decide), if_pos (by decide)]
    decide
  · rw [Coherent, if_neg (by decide), if_neg (by decide)]
    decide

set_option maxRecDepth 100000 in
theorem witness_StepKeepsPinsCoherent :
    Coherent (offer State.reset (encode initV1)) ∧ ∃ t, step (offer State.reset (encode initV1)) = .next t := by
  refine ⟨?_, runs (by decide)⟩
  rw [Coherent, if_neg (by decide), if_neg (by decide)]
  decide

theorem reachable_reset : Reachable State.reset :=
  .powerOn Params.default [] 0#8 0#8 (by decide)

theorem reachable_offer {s : State} (w : Word) (h : Reachable s) (hr : s.rstIn = none) : Reachable (offer s w) := by
  have := Reachable.host s [w] none h
  rw [← hr] at this
  exact this

theorem reachable_ticks : ∀ (n : Nat) {s t : State}, Reachable s → ticks n s = .next t → Reachable t
  | 0, s, t, h, ht => by cases ht; exact h
  | n + 1, s, t, h, ht => by
    simp only [ticks] at ht
    cases hu : tick s with
    | next u => rw [hu] at ht; exact reachable_ticks n (.tick s u h hu) ht
    | fault f => rw [hu] at ht; cases ht
    | refused r => rw [hu] at ht; cases ht

theorem witness_OnTimePlusOffTimeIsFramePeriod : ∃ s, Reachable s ∧ s.brtValid = true := by
  obtain ⟨t, ht, hb⟩ :=
    after_next (o := tick (offer State.reset (encode (.setbrt 50)))) (f := fun t => t.brtValid) (by decide)
  exact ⟨t, .tick _ t (reachable_offer _ reachable_reset rfl) ht, hb⟩

/-- At power-on, and after the reset that ends a refused run. -/
theorem witness_AtMostOneDigitEverConducts :
    Reachable State.reset ∧ Reachable (resetAfterRefusal (consumeWord (offer State.reset 0#64))) :=
  ⟨reachable_reset, .afterRefusal _ (.reservedOpcode 0#64) (reachable_offer _ reachable_reset rfl)
    (refusal_eq (by decide))⟩

set_option maxRecDepth 100000 in
/-- The end of the INIT of V-I2, one acceptance and 42 events from reset. -/
theorem witness_ConfiguredIdleEngineIsQuiescent :
    ∃ s, Reachable s ∧ (decide (s.configured = true ∧ s.busy = false)) = true := by
  obtain ⟨t, ht, hb⟩ :=
    after_next (o := ticks 43 (offer State.reset (encode initV2)))
      (f := fun t => decide (t.configured = true ∧ t.busy = false)) (by decide)
  exact ⟨t, reachable_ticks _ (reachable_offer _ reachable_reset rfl) ht, hb⟩

/-- The moment after the acceptance of an INIT. -/
theorem witness_LevelsAreInverses :
    ∃ s, Reachable s ∧ (decide (s.configured = true ∨ (s.busy = true ∧ s.op = 1#4))) = true := by
  obtain ⟨t, ht, hb⟩ :=
    after_next (o := tick (offer State.reset (encode initV2)))
      (f := fun t => decide (t.configured = true ∨ (t.busy = true ∧ t.op = 1#4))) (by decide)
  exact ⟨t, .tick _ t (reachable_offer _ reachable_reset rfl) ht, hb⟩

end Sys2Proof.Tests
end

section
/-! PROOFS. An idle engine accepts exactly the acceptable commands and runs each to its end (00_scope.md R18;
60_exceptions.md R170, R171; 70_reset_and_hazards.md R213): the sequencer always comes to rest, the acceptance of each
command succeeds exactly when the host respects its input constraints, and both together give the whole command. -/

namespace Sys2Proof.Machine

/-! ### A run to idle ends idle -/

/-- A bound on the ticks the running command still takes: two for each event from UPC on and one that finds the
expansion at its end; one less if a hold has begun already, whose end takes a tick whatever UPC is. -/
def pendingTicks (s : State) : Nat :=
  if s.hold = 0#16 then 2 * (s.expansion.length - s.upc) + 1 else max 1 (2 * (s.expansion.length - s.upc))

theorem pendingTicks_of_no_hold {s : State} (h : s.hold = 0#16) :
    pendingTicks s = 2 * (s.expansion.length - s.upc) + 1 := if_pos h

theorem pendingTicks_of_hold {s : State} (h : s.hold ≠ 0#16) :
    pendingTicks s = max 1 (2 * (s.expansion.length - s.upc)) := if_neg h

theorem pendingTicks_pos (s : State) : 0 < pendingTicks s := by
  unfold pendingTicks
  split <;> omega

theorem pendingTicks_le (s : State) : pendingTicks s ≤ 2 * s.expansion.length + 1 := by
  unfold pendingTicks
  split <;> omega

/-- After the last event the engine is idle; before it, only the later events are pending. -/
theorem advance_idle_or_pendingTicks_lt (s : State) (h : s.hold = 0#16) :
    (advance s).busy = false ∨ pendingTicks (advance s) < 2 * (s.expansion.length - s.upc) := by
  unfold advance
  split
  · exact .inl (complete_busy s)
  · refine .inr ?_
    simp only [pendingTicks_of_no_hold, h]
    omega

/-- Every tick with BUSY = 1 ends the command or leaves fewer ticks of it, RST or not. -/
theorem busyTick_idle_or_pendingTicks_lt (s : State) :
    (busyTick s).busy = false ∨ pendingTicks (busyTick s) < pendingTicks s := by
  obtain ⟨-, ht⟩ | ⟨u, hu, h⟩ := busyTick_cases s
  · exact .inl (by rw [ht, engineReset_busy])
  have hexp : u.expansion = s.expansion := by obtain ⟨-, rfl⟩ | ⟨k, -, rfl⟩ := hu <;> rfl
  have hupc : u.upc = s.upc := by obtain ⟨-, rfl⟩ | ⟨k, -, rfl⟩ := hu <;> rfl
  obtain ⟨hhold, ht⟩ | ⟨-, -, ht⟩ | ⟨e, hhold, he, ⟨hemit, ht⟩ | ⟨hemit, ht⟩⟩ := h
  · -- a hold ends
    rw [ht]
    have hadv := advance_idle_or_pendingTicks_lt (endHold u) (endHold_hold u)
    rw [endHold_expansion, endHold_upc, hexp, hupc] at hadv
    rw [pendingTicks_of_hold hhold]
    exact hadv.imp_right fun hlt => by omega
  · -- the expansion is at its end
    rw [ht]
    exact .inl (complete_busy u)
  · -- an event that is over at once
    rw [ht]
    have hadv := advance_idle_or_pendingTicks_lt (emit e u) hemit
    rw [emit_expansion, emit_upc, hexp, hupc] at hadv
    rw [pendingTicks_of_no_hold hhold]
    exact hadv.imp_right fun hlt => by omega
  · -- an event that begins a hold
    rw [ht]
    have hlt : s.upc < s.expansion.length := (List.getElem?_eq_some_iff.mp he).1
    rw [pendingTicks_of_no_hold hhold, pendingTicks_of_hold hemit, emit_expansion, emit_upc, hexp, hupc]
    exact .inr (by omega)

theorem runBusy_busy (n : Nat) (s : State) (h : pendingTicks s ≤ n) : (runBusy n s).busy = false := by
  induction n generalizing s with
  | zero => exact absurd h (Nat.not_le.mpr (pendingTicks_pos s))
  | succ n ih =>
    cases hb : s.busy with
    | false => rwa [runBusy_of_idle _ s hb]
    | true =>
      rw [runBusy_of_busy n s hb]
      obtain hidle | hlt := busyTick_idle_or_pendingTicks_lt s
      · rwa [runBusy_of_idle _ _ hidle]
      · exact ih _ (by omega)

/-- A run to idle ends with BUSY = 0 from every state, whatever RST does (R28). -/
@[simp] theorem runToIdle_busy (s : State) : (runToIdle s).busy = false := runBusy_busy _ s (pendingTicks_le s)

/-! ### What is accepted -/

theorem initRefusal_eq_none_iff (n : Nat) (pins : List Byte) (w : Word) (s : State) :
    initRefusal n pins w s = none ↔
      s.configured = false ∧ (1 ≤ n ∧ n ≤ 4) ∧ pins.all s.params.validPin = true ∧ pinsDistinct pins = true := by
  unfold initRefusal
  split_ifs <;> simp_all

/-- The acceptance of a command answers a next state only if its host respects the input constraints (R105, R132, R133,
R150). -/
theorem acceptable_of_accept {i : Instr} {s a : State} (h : accept i s = .next a) : acceptable i s = true := by
  obtain ⟨pol, n, d0, d1, d2, d3, data, clk, latch, rfl, hnone, -⟩ | ⟨p, rfl, -⟩ |
    ⟨t0, t1, t2, t3, m, rfl, hc, hv, -⟩ | ⟨b, rfl, hd, hc, -⟩ | ⟨b, rfl, hd, hc, -⟩ := accept_cases h
  · obtain ⟨hc, hn, hv, hp⟩ := (initRefusal_eq_none_iff ..).mp hnone
    simp [acceptable, hc, hn, hv, hp]
  · rfl
  · simp [acceptable, hc, hv]
  · simp [acceptable, hd, hc]
  · simp [acceptable, hd, hc]

/-- And it does if the host respects them (R213). -/
theorem accept_of_acceptable {i : Instr} {s : State} (h : acceptable i s = true) : ∃ a, accept i s = .next a := by
  cases i with
  | init pol n d0 d1 d2 d3 data clk latch => exact ⟨_, accept_init h⟩
  | setbrt percent => exact ⟨_, rfl⟩
  | render t0 t1 t2 t3 m =>
    obtain ⟨hc, hv⟩ := Bool.and_eq_true_iff.mp h
    exact ⟨_, accept_render hc hv⟩
  | shout b =>
    obtain ⟨hd, hc⟩ := Bool.and_eq_true_iff.mp h
    exact ⟨_, accept_shout hd hc⟩
  | shwr b =>
    obtain ⟨hd, hc⟩ := Bool.and_eq_true_iff.mp h
    exact ⟨_, accept_shwr hd hc⟩

theorem accept_refused_of_not_acceptable {i : Instr} {s : State} (h : acceptable i s = false) :
    ∃ r, accept i s = .refused r := by
  cases ha : accept i s with
  | next a => simp [acceptable_of_accept ha] at h
  | fault f => exact absurd ha (no_fault _ f)
  | refused r => exact ⟨r, rfl⟩

/-! ### From acceptance to completion -/

/-- An accepted command is over at once (SETBRT, R120) or has started an expansion (R25); no event is out yet. -/
theorem accept_idle_or_start {i : Instr} {s a : State} (hb : s.busy = false) (h : accept i s = .next a) :
    (a.busy = false ∧ a.trace = s.trace) ∨
    ∃ op es u, a = start op es u ∧ u.trace = s.trace ∧ u.rstIn = s.rstIn := by
  obtain ⟨pol, n, d0, d1, d2, d3, data, clk, latch, -, -, rfl⟩ | ⟨p, -, rfl⟩ |
    ⟨t0, t1, t2, t3, m, -, -, -, rfl⟩ | ⟨b, -, -, -, rfl⟩ | ⟨b, -, -, -, rfl⟩ := accept_cases h
  · exact .inr ⟨_, _, _, rfl, rfl, rfl⟩
  · exact .inl ⟨hb, rfl⟩
  · exact .inr ⟨_, _, _, rfl, rfl, rfl⟩
  · exact .inr ⟨_, _, _, rfl, rfl, rfl⟩
  · exact .inr ⟨_, _, _, rfl, rfl, rfl⟩

/-- An accepted command is run until the engine is idle (R18). -/
theorem exec_of_accepted {i : Instr} {s a : State} (hb : s.busy = false) (ha : accept i s = .next a) :
    exec i s = .next (runToIdle a) := by
  rw [exec_eq_runCommand, runCommand_of_idle _ _ hb, ha]

/-- With RST away the run of an accepted command emits its whole expansion, in order (R19, R25). -/
theorem runToIdle_trace_of_accepted {i : Instr} {s a : State} (hb : s.busy = false) (ha : accept i s = .next a)
    (hr : s.rstIn = none) : (runToIdle a).trace = s.trace ++ (if a.busy then a.expansion else []) := by
  obtain ⟨hidle, htrace⟩ | ⟨op, es, u, rfl, htrace, hrst⟩ := accept_idle_or_start hb ha
  · rw [runToIdle_of_idle a hidle, htrace]
    simp [hidle]
  · simp [runToIdle_start op es u (hrst.trans hr), completeAtOnce_eq, htrace]

/-- Settles O12: the acceptance decides, and a run to idle does the rest. -/
theorem commandsCompleteExactlyWhenAcceptable : Obligations.CommandsCompleteExactlyWhenAcceptable := by
  unfold Obligations.CommandsCompleteExactlyWhenAcceptable
  intro i s hb
  constructor
  · intro h
    obtain ⟨a, ha⟩ := accept_of_acceptable h
    exact ⟨a, runToIdle a, ha, exec_of_accepted hb ha, runToIdle_busy a, runToIdle_trace_of_accepted hb ha⟩
  · intro h
    obtain ⟨r, ha⟩ := accept_refused_of_not_acceptable h
    exact ⟨r, exec_of_refused hb ha⟩

end Sys2Proof.Machine
end

section
/-! PROOFS. A property that holds after each event of a list, and which digits conduct during the expansion of each
command (10_state.md R32, R37; 40_configuration.md R102 to R104; 43_render.md R151). -/

namespace Sys2Proof.Machine

/-! ### A property that holds throughout a list of events -/

/-- `P` holds now and after each event of the list. -/
def Throughout (P : State → Prop) (es : List Event) (s : State) : Prop :=
  ∀ k, P (performAll (es.take k) s)

theorem throughout_nil {P : State → Prop} {s : State} : Throughout P [] s ↔ P s := by
  simp [Throughout]

theorem throughout_cons {P : State → Prop} {e : Event} {es : List Event} {s : State} :
    Throughout P (e :: es) s ↔ P s ∧ Throughout P es (perform e s) := by
  constructor
  · exact fun h => ⟨h 0, fun k => h (k + 1)⟩
  · rintro ⟨hs, h⟩ k
    cases k with
    | zero => exact hs
    | succ k => exact h k

theorem throughout_append {P : State → Prop} {es fs : List Event} {s : State} :
    Throughout P (es ++ fs) s ↔ Throughout P es s ∧ Throughout P fs (performAll es s) := by
  induction es generalizing s with
  | nil =>
    rw [List.nil_append, throughout_nil, performAll_nil]
    exact ⟨fun h => ⟨h 0, h⟩, And.right⟩
  | cons e es ih => rw [List.cons_append, throughout_cons, throughout_cons, ih, performAll_cons, and_assoc]

theorem Throughout.at_end {P : State → Prop} {es : List Event} {s : State} (h : Throughout P es s) :
    P (performAll es s) := by
  simpa using h es.length

theorem Throughout.mono {P Q : State → Prop} {es : List Event} {s : State} (h : Throughout P es s)
    (hpq : ∀ u, P u → Q u) : Throughout Q es s :=
  fun k => hpq _ (h k)

/-- A property that each event of the list keeps holds throughout. -/
theorem throughout_of_kept {P : State → Prop} {es : List Event} {s : State}
    (h : ∀ e ∈ es, ∀ u, P u → P (perform e u)) (hs : P s) : Throughout P es s := by
  induction es generalizing s with
  | nil => exact throughout_nil.mpr hs
  | cons e es ih =>
    obtain ⟨he, hes⟩ := List.forall_mem_cons.mp h
    exact throughout_cons.mpr ⟨hs, ih hes (he s hs)⟩

/-! ### Digits that conduct -/

/-- No digit conducts. -/
def Dark (s : State) : Prop := ∀ i, conducts s i = false

/-- At most the digit `i` conducts. -/
def OnlyConducts (i : Fin 4) (s : State) : Prop := ∀ j, conducts s j = true → j = i

theorem OnlyConducts.atMostOne {i : Fin 4} {s : State} (h : OnlyConducts i s) : AtMostOneConducts s := by
  have hnodup : (conducting s).Nodup := List.Nodup.filter _ (by decide)
  have hsub : conducting s ⊆ [i] := fun j hj => by simpa using h j (List.mem_filter.mp hj).2
  exact (List.subperm_of_subset hnodup hsub).length_le

theorem Dark.onlyConducts {s : State} (h : Dark s) (i : Fin 4) : OnlyConducts i s :=
  fun j hj => by simp [h j] at hj

theorem Dark.atMostOne {s : State} (h : Dark s) : AtMostOneConducts s := (h.onlyConducts 0).atMostOne

theorem Dark.of_conducts_eq {s u : State} (h : Dark s) (hu : ∀ i, conducts u i = conducts s i) : Dark u :=
  fun i => (hu i).trans (h i)

theorem OnlyConducts.of_conducts_eq {s u : State} {i : Fin 4} (h : OnlyConducts i s)
    (hu : ∀ j, conducts u j = conducts s j) : OnlyConducts i u :=
  fun j hj => h j ((hu j).symm.trans hj)

/-- With no line driven nothing conducts (R33). -/
theorem dark_of_undriven {s : State} (h : Undriven s) : Dark s := by
  intro i
  simp [conducts, h.1]

/-- In the quiescent state nothing conducts: each used digit is at its off level (R36). -/
theorem dark_of_quiescent {s : State} (hl : LevelsInverse s) (h : Quiescent s) : Dark s := by
  intro i
  obtain ⟨hoe, hlvl⟩ := h.1 i
  cases hi : decide (i.val < s.ndig.toNat) <;> simp [conducts, hoe, hlvl, hi, hl.1]

/-! ### What single events do to the digits that conduct -/

theorem RoleBits.get_set (b : RoleBits) (r q : Role) (v : Bool) :
    (b.set r v).get q = if q = r then v else b.get q := by
  split
  · next h => rw [h, RoleBits.get_set_same]
  · next h => exact RoleBits.get_set_other b r q v h

@[simp] theorem digitRole_inj (i j : Fin 4) : digitRole i = digitRole j ↔ i = j :=
  ⟨digitRole_injective i j, congrArg digitRole⟩

/-- A write to another digit's line changes nothing. -/
theorem conducts_perform_digitLevel_ne {i j : Fin 4} (h : j ≠ i) (l : Bool) (s : State) :
    conducts (perform (.pinLevel (digitRole i) l) s) j = conducts s j := by
  simp [conducts, RoleBits.get_set, h]

/-- Whatever is written to one digit's line, no second digit begins to conduct. -/
theorem Dark.perform_digitLevel {s : State} (h : Dark s) (i : Fin 4) (l : Bool) :
    OnlyConducts i (perform (.pinLevel (digitRole i) l) s) := by
  intro j hj
  by_contra hne
  rw [conducts_perform_digitLevel_ne hne, h j] at hj
  cases hj

/-- The off level on the one digit that may conduct leaves none. -/
theorem OnlyConducts.perform_digitOff {s : State} {i : Fin 4} {l : Bool} (h : OnlyConducts i s)
    (hl : l = !s.digitOn) : Dark (perform (.pinLevel (digitRole i) l) s) := by
  intro j
  by_cases hj : j = i
  · subst hj
    simp [conducts, hl]
  · rw [conducts_perform_digitLevel_ne hj]
    exact Bool.eq_false_iff.mpr (mt (h j) hj)

/-- Enabling another line changes nothing for a digit (R102, R103). -/
theorem conducts_perform_pinDir_ne {r : Role} {i : Fin 4} (hr : digitRole i ≠ r) (s : State) :
    conducts (perform (.pinDir r) s) i = conducts s i := by
  simp [conducts, RoleBits.get_set, hr]

/-- A digit whose level is the off level may be enabled (R102). -/
theorem Dark.perform_digitDir {s : State} {i : Fin 4} (h : Dark s) (hl : s.lvl.get (digitRole i) = !s.digitOn) :
    Dark (perform (.pinDir (digitRole i)) s) := by
  intro j
  by_cases hj : j = i
  · subst hj
    simp [conducts, hl]
  · rw [conducts_perform_pinDir_ne (by simpa using hj), h j]

theorem conducts_perform_alone {e : Event} (he : leavesDigitsAlone e = true) (s : State) (i : Fin 4) :
    conducts (perform e s) i = conducts s i :=
  conducts_digits_alone [e] (by simpa using he) s i

/-- Events that leave the digits alone leave a property of what conducts as it is. -/
theorem throughout_onlyConducts_alone {es : List Event} (hes : es.all leavesDigitsAlone = true) {i : Fin 4}
    {s : State} (h : OnlyConducts i s) : Throughout (OnlyConducts i) es s :=
  throughout_of_kept
    (fun e he _ hu => hu.of_conducts_eq (conducts_perform_alone (List.all_eq_true.mp hes e he) _)) h

theorem throughout_dark_alone {es : List Event} (hes : es.all leavesDigitsAlone = true) {s : State} (h : Dark s) :
    Throughout Dark es s :=
  throughout_of_kept
    (fun e he _ hu => hu.of_conducts_eq (conducts_perform_alone (List.all_eq_true.mp hes e he) _)) h

theorem Dark.throughout_atMostOne {es : List Event} (hes : es.all leavesDigitsAlone = true) {s : State}
    (h : Dark s) : Throughout AtMostOneConducts es s :=
  (throughout_dark_alone hes h).mono fun _ => Dark.atMostOne

/-! ### INIT's expansion -/

theorem mem_digitsBelow (n : Nat) (i : Fin 4) : i ∈ digitsBelow n ↔ i.val < n := by
  by_cases hn : n < 4
  · interval_cases n <;> revert i <;> decide
  · have htake : digitsBelow n = [0, 1, 2, 3] := List.take_of_length_le (by simp; omega)
    rw [htake]
    have hall : ∀ j : Fin 4, j ∈ ([0, 1, 2, 3] : List (Fin 4)) := by decide
    exact ⟨fun _ => by omega, fun _ => hall i⟩

/-- The digit set-ups enable exactly the lines of their digits. -/
theorem performAll_digitSetups_oe (off : Bool) (is : List (Fin 4)) (s : State) (j : Fin 4) :
    (performAll (is.flatMap (digitSetup off)) s).oe.get (digitRole j) =
      (decide (j ∈ is) || s.oe.get (digitRole j)) := by
  induction is generalizing s with
  | nil => simp
  | cons i is ih =>
    rw [List.flatMap_cons, performAll_append, ih]
    simp only [digitSetup, performAll_cons, performAll_nil, perform_pinDir_oe, perform_pinLevel_oe, RoleBits.get_set,
      digitRole_inj, List.mem_cons]
    by_cases hi : j = i <;> simp [hi]

/-- And put exactly those at the off level. -/
theorem performAll_digitSetups_lvl (off : Bool) (is : List (Fin 4)) (s : State) (j : Fin 4) :
    (performAll (is.flatMap (digitSetup off)) s).lvl.get (digitRole j) =
      if j ∈ is then off else s.lvl.get (digitRole j) := by
  induction is generalizing s with
  | nil => simp
  | cons i is ih =>
    rw [List.flatMap_cons, performAll_append, ih]
    simp only [digitSetup, performAll_cons, performAll_nil, perform_pinDir_lvl, perform_pinLevel_lvl, RoleBits.get_set,
      digitRole_inj, List.mem_cons]
    by_cases hi : j = i <;> simp [hi]

/-- Off level first, direction second: no digit conducts while the digit pins are set up (R102, R207). -/
theorem throughout_dark_digitSetups {off : Bool} (is : List (Fin 4)) {s : State} (hoff : off = !s.digitOn)
    (h : Dark s) : Throughout Dark (is.flatMap (digitSetup off)) s := by
  induction is generalizing s with
  | nil => exact throughout_nil.mpr h
  | cons i is ih =>
    have h1 : Dark (perform (.pinLevel (digitRole i) off) s) := (h.onlyConducts i).perform_digitOff hoff
    have h2 : Dark (perform (.pinDir (digitRole i)) (perform (.pinLevel (digitRole i) off) s)) :=
      h1.perform_digitDir (by simp [hoff])
    rw [List.flatMap_cons, throughout_append]
    refine ⟨?_, ih (by simpa [digitSetup] using hoff) h2⟩
    exact throughout_cons.mpr ⟨h, throughout_cons.mpr ⟨h1, throughout_nil.mpr h2⟩⟩

/-- The set-up of the serial pins: three lines enabled, data and clock low, no edge (R103). -/
theorem performAll_serialSetup (s : State) :
    performAll serialSetup s =
      { s with
        oe := { s.oe with sdata := true, sclk := true, slatch := true }
        lvl := { s.lvl with sdata := false, sclk := false }
        hold := 0#16
        trace := s.trace ++ serialSetup } := by
  simp [serialSetup, perform, endHold, emit, applyEvent, pinDir, pinLevel, registerReaction, isRisingEdge,
    RoleBits.set]

theorem serialDriven_after_serialSetup (s : State) : SerialDriven (performAll serialSetup s) := by
  rw [performAll_serialSetup]
  exact ⟨rfl, rfl, rfl⟩

theorem throughout_dark_serialSetup {s : State} (h : Dark s) : Throughout Dark serialSetup s := by
  refine throughout_of_kept (fun e he u hu => hu.of_conducts_eq fun i => ?_) h
  simp only [serialSetup, List.mem_cons, List.not_mem_nil, or_false] at he
  obtain rfl | rfl | rfl | rfl | rfl := he
  · exact conducts_perform_pinDir_ne (digitRole_ne_sdata i) u
  · exact conducts_perform_pinDir_ne (digitRole_ne_sclk i) u
  · exact conducts_perform_pinDir_ne (digitRole_ne_slatch i) u
  · exact conducts_perform_alone rfl u i
  · exact conducts_perform_alone rfl u i

/-- No digit conducts during INIT (R106). -/
theorem throughout_dark_initExpansion (n : Nat) {off : Bool} (allOff : Byte) {s : State} (hoff : off = !s.digitOn)
    (h : Dark s) : Throughout Dark (initExpansion n off allOff) s := by
  have hsetup := throughout_dark_digitSetups (digitsBelow n) hoff h
  have hserial := throughout_dark_serialSetup hsetup.at_end
  rw [initExpansion, throughout_append, throughout_append, performAll_append]
  exact ⟨⟨hsetup, hserial⟩, throughout_dark_alone (shiftWrite_leavesDigitsAlone allOff) hserial.at_end⟩

/-- INIT leaves the lines it uses quiescent, whatever they were (R106). -/
theorem performAll_initExpansion (n : Nat) (off : Bool) (allOff : Byte) (s : State) :
    performAll (initExpansion n off allOff) s =
      { performAll ((digitsBelow n).flatMap (digitSetup off)) s with
        oe := { (performAll ((digitsBelow n).flatMap (digitSetup off)) s).oe with
          sdata := true, sclk := true, slatch := true }
        lvl := { (performAll ((digitsBelow n).flatMap (digitSetup off)) s).lvl with
          sdata := false, sclk := false, slatch := true }
        srShift := allOff
        srOut := allOff
        hold := 0#16
        trace := s.trace ++ initExpansion n off allOff } := by
  rw [initExpansion, performAll_append, performAll_append,
    performAll_shiftWrite allOff _ (serialDriven_after_serialSetup _), performAll_serialSetup]
  simp

/-- The serial bits are not a digit's. -/
theorem RoleBits.get_digit_of_serial (b : RoleBits) (d c l : Bool) (i : Fin 4) :
    ({ b with sdata := d, sclk := c, slatch := l } : RoleBits).get (digitRole i) = b.get (digitRole i) := by
  match i with
  | 0 | 1 | 2 | 3 => rfl

/-- From undriven pins, INIT ends quiescent (R36, R106). -/
theorem quiescent_after_initExpansion {n : Nat} {off : Bool} (allOff : Byte) {s : State} (h : Undriven s)
    (hn : s.ndig.toNat = n) (hoff : off = s.digitOff) :
    Quiescent (performAll (initExpansion n off allOff) s) := by
  obtain ⟨hoe, hlvl⟩ := h
  rw [performAll_initExpansion]
  refine ⟨fun i => ⟨?_, ?_⟩, rfl, rfl, rfl, rfl, rfl, rfl⟩
  · simp [RoleBits.get_digit_of_serial, performAll_digitSetups_oe, hoe, mem_digitsBelow, hn]
  · simp [RoleBits.get_digit_of_serial, performAll_digitSetups_lvl, hlvl, mem_digitsBelow, hn, hoff]

/-! ### The cycle of one digit -/

/-- What a digit's cycle does between the digit's two levels: the pattern is shown, held and blanked (R151). -/
def digitShow (s : State) (c p : Byte) : List Event :=
  [.memRead c p] ++ shiftWrite (not8 p) ++ [.wait (onHold s)] ++ shiftWrite s.params.allOff

theorem digitCycle_eq (s : State) (i : Fin 4) (c p : Byte) :
    digitCycle s i c p =
      .pinLevel (digitRole i) s.digitOn ::
        (digitShow s c p ++ [.pinLevel (digitRole i) s.digitOff, .wait (offTime s)]) := rfl

theorem digitShow_leavesDigitsAlone (s : State) (c p : Byte) : (digitShow s c p).all leavesDigitsAlone = true := rfl

/-- In the cycle of digit `i` no other digit conducts (R151, R154). -/
theorem throughout_onlyConducts_digitCycle {s u : State} (i : Fin 4) (c p : Byte) (hu : Dark u)
    (hoff : s.digitOff = !u.digitOn) : Throughout (OnlyConducts i) (digitCycle s i c p) u := by
  have hshow := throughout_onlyConducts_alone (digitShow_leavesDigitsAlone s c p)
    (hu.perform_digitLevel i s.digitOn)
  have hend := hshow.at_end.perform_digitOff (l := s.digitOff) (by simpa using hoff)
  rw [digitCycle_eq, throughout_cons, throughout_append, throughout_cons]
  exact ⟨hu.onlyConducts i, hshow, hshow.at_end, throughout_onlyConducts_alone rfl (hend.onlyConducts i)⟩

/-- The cycle of a used digit starts quiescent and ends quiescent (R36, R151). -/
theorem quiescent_after_digitCycle {s u : State} {i : Fin 4} (c p : Byte) (hi : i.val < u.ndig.toNat)
    (hoff : s.digitOff = u.digitOff) (h : Quiescent u) : Quiescent (performAll (digitCycle s i c p) u) := by
  obtain ⟨hdig, hd, hc, hl, -⟩ := h
  rw [performAll_digitCycle s u i c p ⟨hd, hc, hl⟩]
  refine ⟨fun j => ⟨(hdig j).1, ?_⟩, hd, hc, hl, rfl, rfl, rfl⟩
  rw [RoleBits.get_digit_of_serial, RoleBits.get_set]
  split
  · next hj => simp [(digitRole_inj j i).mp hj, hi, hoff]
  · exact (hdig j).2

/-! ### Expansions that keep the pins as the rules want them -/

/-- After every further event at most one digit conducts (R37), and the pins are quiescent in the end (R36). -/
def Safe (es : List Event) (s : State) : Prop :=
  Throughout AtMostOneConducts es s ∧ Quiescent (performAll es s)

theorem Safe.tail {e : Event} {es : List Event} {s : State} (h : Safe (e :: es) s) : Safe es (perform e s) :=
  ⟨(throughout_cons.mp h.1).2, h.2⟩

theorem safe_shiftOut (v : Byte) {s : State} (hl : LevelsInverse s) (h : Quiescent s) : Safe (shiftOut v) s := by
  refine ⟨(dark_of_quiescent hl h).throughout_atMostOne (shiftOut_leavesDigitsAlone v), ?_⟩
  obtain ⟨hdig, hoe1, hoe2, hoe3, -, -, hlatch⟩ := h
  rw [performAll_shiftOut v s ⟨hoe1, hoe2, hoe3⟩]
  exact ⟨fun i => ⟨(hdig i).1, (RoleBits.get_digit_of_serial ..).trans (hdig i).2⟩, hoe1, hoe2, hoe3, rfl, rfl, hlatch⟩

theorem safe_shiftWrite (v : Byte) {s : State} (hl : LevelsInverse s) (h : Quiescent s) : Safe (shiftWrite v) s := by
  refine ⟨(dark_of_quiescent hl h).throughout_atMostOne (shiftWrite_leavesDigitsAlone v), ?_⟩
  obtain ⟨hdig, hoe1, hoe2, hoe3, -⟩ := h
  rw [performAll_shiftWrite v s ⟨hoe1, hoe2, hoe3⟩]
  exact ⟨fun i => ⟨(hdig i).1, (RoleBits.get_digit_of_serial ..).trans (hdig i).2⟩, hoe1, hoe2, hoe3, rfl, rfl, rfl⟩

theorem safe_initExpansion {n : Nat} {off : Bool} (allOff : Byte) {s : State} (h : Undriven s)
    (hl : LevelsInverse s) (hn : s.ndig.toNat = n) (hoff : off = s.digitOff) :
    Safe (initExpansion n off allOff) s :=
  ⟨(throughout_dark_initExpansion n allOff (hoff.trans hl.1) (dark_of_undriven h)).mono fun _ => Dark.atMostOne,
    quiescent_after_initExpansion allOff h hn hoff⟩

/-- The cycles of used digits, one after another: between two of them the pins are quiescent (R150, R151). -/
theorem safe_digitCycles {s : State} (text : FourBytes) (k : Nat) (is : List (Fin 4)) {u : State}
    (hused : ∀ i ∈ is, i.val < u.ndig.toNat) (hoff : s.digitOff = u.digitOff) (hl : LevelsInverse u)
    (h : Quiescent u) : Safe (digitCycles s text k is) u := by
  induction is generalizing k u with
  | nil => exact ⟨throughout_nil.mpr (dark_of_quiescent hl h).atMostOne, h⟩
  | cons i is ih =>
    obtain ⟨hi, his⟩ := List.forall_mem_cons.mp hused
    have hcycle := throughout_onlyConducts_digitCycle (s := s) i (text.get i)
      (glyphPattern s.params s.mem k (text.get i)) (dark_of_quiescent hl h) (hoff.trans hl.1)
    have hquiet := quiescent_after_digitCycle (text.get i) (glyphPattern s.params s.mem k (text.get i)) hi hoff h
    obtain ⟨hrest, hend⟩ := ih (k + drawsOfRead s.params (text.get i)) (by simpa using his) (by simpa using hoff)
      (by simpa [LevelsInverse] using hl) hquiet
    rw [digitCycles]
    exact ⟨throughout_append.mpr ⟨hcycle.mono fun _ => OnlyConducts.atMostOne, hrest⟩,
      by rwa [performAll_append]⟩

end Sys2Proof.Machine
end

section
/-! PROOFS. The coherence of the pins is kept by every operation of the machine, one event at a time and one command
at a time, and so holds of every reachable state (10_state.md R33, R35 to R37). -/

namespace Sys2Proof.Machine

/-! ### States that agree on the pins -/

/-- Two states with the same lines, digit count and level registers: what the rules about the pins look at. -/
structure SamePins (s u : State) : Prop where
  oe : u.oe = s.oe
  lvl : u.lvl = s.lvl
  ndig : u.ndig = s.ndig
  digitOn : u.digitOn = s.digitOn
  digitOff : u.digitOff = s.digitOff
  segOn : u.segOn = s.segOn
  segOff : u.segOff = s.segOff

theorem SamePins.perform {s u : State} (h : SamePins s u) (e : Event) : SamePins (perform e s) (perform e u) := by
  obtain ⟨hoe, hlvl, hndig, hon, hoff, hson, hsoff⟩ := h
  cases e <;> constructor <;> simp [hoe, hlvl, hndig, hon, hoff, hson, hsoff]

theorem SamePins.performAll {s u : State} (h : SamePins s u) (es : List Event) :
    SamePins (performAll es s) (performAll es u) := by
  induction es generalizing s u with
  | nil => exact h
  | cons e es ih => exact ih (h.perform e)

theorem SamePins.atMostOne {s u : State} (h : SamePins s u) (hs : AtMostOneConducts s) : AtMostOneConducts u := by
  have hcond : conducts u = conducts s := by
    funext i
    simp [conducts, h.oe, h.lvl, h.digitOn]
  simpa [AtMostOneConducts, conducting, hcond] using hs

theorem SamePins.quiescent {s u : State} (h : SamePins s u) (hs : Quiescent s) : Quiescent u := by
  simpa [Quiescent, h.oe, h.lvl, h.ndig, h.digitOff] using hs

theorem SamePins.levelsInverse {s u : State} (h : SamePins s u) (hs : LevelsInverse s) : LevelsInverse u := by
  simpa [LevelsInverse, h.digitOn, h.digitOff, h.segOn, h.segOff] using hs

theorem SamePins.countLegal {s u : State} (h : SamePins s u) (hs : CountLegal s) : CountLegal u := by
  simpa [CountLegal, h.ndig] using hs

theorem SamePins.safe {s u : State} (h : SamePins s u) {es : List Event} (hs : Safe es s) : Safe es u :=
  ⟨fun k => (h.performAll _).atMostOne (hs.1 k), (h.performAll es).quiescent hs.2⟩

/-- An event that has begun has moved the pins already; its end moves none. -/
theorem samePins_emit (e : Event) (s : State) : SamePins (perform e s) (emit e s) := ⟨rfl, rfl, rfl, rfl, rfl, rfl, rfl⟩

/-! ### Coherence, by what the engine is doing -/

/-- What coherence asks of a command in progress beside its events to come. -/
structure CommandRunning (s : State) : Prop where
  busy : s.busy = true
  upc : s.upc < s.expansion.length
  levels : LevelsInverse s
  count : CountLegal s
  configures : s.op = 1#4 ∨ s.configured = true

theorem coherent_iff_running {s : State} (hb : s.busy = true) :
    Coherent s ↔ CommandRunning s ∧ Safe (remaining s) s := by
  rw [Coherent, if_pos hb]
  constructor
  · rintro ⟨hupc, hlev, hcount, hop, hsafe⟩
    exact ⟨⟨hb, hupc, hlev, hcount, hop⟩, hsafe⟩
  · rintro ⟨⟨-, hupc, hlev, hcount, hop⟩, hsafe⟩
    exact ⟨hupc, hlev, hcount, hop, hsafe⟩

theorem coherent_iff_configured {s : State} (hb : s.busy = false) (hc : s.configured = true) :
    Coherent s ↔ SequencerAtRest s ∧ LevelsInverse s ∧ CountLegal s ∧ Quiescent s := by
  simp only [Coherent, hb, hc, Bool.false_eq_true, if_false, if_true]

theorem coherent_iff_unconfigured {s : State} (hb : s.busy = false) (hc : s.configured = false) :
    Coherent s ↔ SequencerAtRest s ∧ Undriven s := by
  simp only [Coherent, hb, hc, Bool.false_eq_true, if_false]

theorem coherent_powerOn (params : Params) (mem : Memory) (a b : Byte) : Coherent (State.powerOn params mem a b) :=
  (coherent_iff_unconfigured rfl rfl).mpr ⟨⟨rfl, rfl, rfl, rfl⟩, rfl, rfl⟩

theorem coherent_engineReset (s : State) : Coherent (engineReset s) :=
  (coherent_iff_unconfigured rfl rfl).mpr ⟨⟨rfl, rfl, rfl, rfl⟩, rfl, rfl⟩

theorem coherent_resetAfterRefusal (s : State) : Coherent (resetAfterRefusal s) :=
  (coherent_iff_unconfigured rfl rfl).mpr ⟨⟨rfl, rfl, rfl, rfl⟩, rfl, rfl⟩

/-- Two states with the same sequencer and the same CONFIGURED: what tells the three kinds of coherent states apart. -/
structure SameSequencer (s u : State) : Prop where
  busy : u.busy = s.busy
  op : u.op = s.op
  upc : u.upc = s.upc
  expansion : u.expansion = s.expansion
  hold : u.hold = s.hold
  configured : u.configured = s.configured

/-- Coherence looks at the pins and the sequencer alone. -/
theorem Coherent.congr {s u : State} (h : Coherent s) (hp : SamePins s u) (hs : SameSequencer s u) : Coherent u := by
  cases hb : s.busy with
  | true =>
    obtain ⟨⟨-, hupc, hlev, hcount, hop⟩, hsafe⟩ := (coherent_iff_running hb).mp h
    refine (coherent_iff_running (hs.busy.trans hb)).mpr ⟨⟨hs.busy.trans hb, ?_, ?_, ?_, ?_⟩, ?_⟩
    · rwa [hs.upc, hs.expansion]
    · exact hp.levelsInverse hlev
    · exact hp.countLegal hcount
    · rwa [hs.op, hs.configured]
    · simpa only [remaining, hs.hold, hs.upc, hs.expansion] using hp.safe hsafe
  | false =>
    have hrest : SequencerAtRest s → SequencerAtRest u := by
      simp only [SequencerAtRest, hs.op, hs.upc, hs.expansion, hs.hold, imp_self]
    cases hc : s.configured with
    | true =>
      obtain ⟨hr, hlev, hcount, hq⟩ := (coherent_iff_configured hb hc).mp h
      exact (coherent_iff_configured (hs.busy.trans hb) (hs.configured.trans hc)).mpr
        ⟨hrest hr, hp.levelsInverse hlev, hp.countLegal hcount, hp.quiescent hq⟩
    | false =>
      obtain ⟨hr, hoe, hlvl⟩ := (coherent_iff_unconfigured hb hc).mp h
      exact (coherent_iff_unconfigured (hs.busy.trans hb) (hs.configured.trans hc)).mpr
        ⟨hrest hr, hp.oe.trans hoe, hp.lvl.trans hlvl⟩

/-- It does not look at the host's inputs. -/
theorem Coherent.host {s : State} (h : Coherent s) (ws : List Word) (r : Option Nat) :
    Coherent { s with offered := ws, rstIn := r } :=
  h.congr ⟨rfl, rfl, rfl, rfl, rfl, rfl, rfl⟩ ⟨rfl, rfl, rfl, rfl, rfl, rfl⟩

/-! ### The sequencer -/

theorem remaining_of_no_hold {s : State} (h : s.hold = 0#16) : remaining s = s.expansion.drop s.upc := by
  rw [remaining, if_pos h]

theorem remaining_of_hold {s : State} (h : s.hold ≠ 0#16) : remaining s = s.expansion.drop (s.upc + 1) := by
  rw [remaining, if_neg h]

theorem CommandRunning.emit {s : State} (h : CommandRunning s) (e : Event) : CommandRunning (emit e s) := by
  obtain ⟨hb, hupc, hlev, hcount, hop⟩ := h
  constructor <;> simpa [LevelsInverse, CountLegal]

theorem CommandRunning.endHold {s : State} (h : CommandRunning s) : CommandRunning (endHold s) := by
  obtain ⟨hb, hupc, hlev, hcount, hop⟩ := h
  exact ⟨hb, hupc, hlev, hcount, hop⟩

/-- The end of an event: the pins are safe for the events after it, or the command is complete and they are
quiescent. -/
theorem coherent_advance {s : State} (h : CommandRunning s) (hh : s.hold = 0#16)
    (hsafe : Safe (s.expansion.drop (s.upc + 1)) s) : Coherent (advance s) := by
  obtain ⟨hb, hupc, hlev, hcount, hop⟩ := h
  unfold advance
  split
  · next hlast =>
    have hconf : (complete s).configured = true := by
      obtain hop | hc := hop
      · simp [hop]
      · simp [configuredAfter, hc]
    rw [List.drop_eq_nil_of_le hlast] at hsafe
    exact (coherent_iff_configured rfl hconf).mpr ⟨⟨rfl, rfl, rfl, rfl⟩, hlev, hcount, hsafe.2⟩
  · next hmore =>
    refine (coherent_iff_running (s := { s with upc := s.upc + 1 }) hb).mpr
      ⟨⟨hb, Nat.not_le.mp hmore, hlev, hcount, hop⟩, ?_⟩
    have hpins : SamePins s { s with upc := s.upc + 1 } := ⟨rfl, rfl, rfl, rfl, rfl, rfl, rfl⟩
    rw [remaining_of_no_hold (s := { s with upc := s.upc + 1 }) hh]
    exact hpins.safe hsafe

/-- Each tick of a command in progress performs the next of the events that coherence is about. -/
theorem coherent_busyTick {s : State} (hb : s.busy = true) (h : Coherent s) : Coherent (busyTick s) := by
  obtain ⟨-, ht⟩ | ⟨u, hu, hcases⟩ := busyTick_cases s
  · rw [ht]
    exact coherent_engineReset s
  obtain ⟨hcoh, hbusy, hhold, hexp, hupc⟩ :
      Coherent u ∧ u.busy = true ∧ u.hold = s.hold ∧ u.expansion = s.expansion ∧ u.upc = s.upc := by
    obtain ⟨-, rfl⟩ | ⟨k, -, rfl⟩ := hu
    · exact ⟨h, hb, rfl, rfl, rfl⟩
    · exact ⟨h.host s.offered _, hb, rfl, rfl, rfl⟩
  rw [← hhold, ← hexp, ← hupc] at hcases
  obtain ⟨hrun, hsafe⟩ := (coherent_iff_running hbusy).mp hcoh
  obtain ⟨hh, ht⟩ | ⟨-, hend, -⟩ | ⟨e, hh, he, hemit⟩ := hcases
  · -- a hold ends
    rw [remaining_of_hold hh] at hsafe
    rw [ht]
    have hpins : SamePins u (endHold u) := ⟨rfl, rfl, rfl, rfl, rfl, rfl, rfl⟩
    exact coherent_advance hrun.endHold rfl (hpins.safe hsafe)
  · -- no command in progress has run out of events
    exact absurd hrun.upc (by simpa using hend)
  · -- event number UPC begins
    obtain ⟨hlt, rfl⟩ := List.getElem?_eq_some_iff.mp he
    rw [remaining_of_no_hold hh, List.drop_eq_getElem_cons hlt] at hsafe
    have hnext := (samePins_emit _ u).safe hsafe.tail
    obtain ⟨hzero, ht⟩ | ⟨hnz, ht⟩ := hemit
    · rw [ht]
      exact coherent_advance (hrun.emit _) hzero (by simpa using hnext)
    · rw [ht]
      refine (coherent_iff_running (hrun.emit _).busy).mpr ⟨hrun.emit _, ?_⟩
      rw [remaining_of_hold hnz]
      simpa using hnext

/-! ### Acceptance -/

/-- A command that starts with a safe expansion is coherent. -/
theorem coherent_start {op : BitVec 4} {es : List Event} {s : State} (hne : es ≠ []) (hlev : LevelsInverse s)
    (hcount : CountLegal s) (hop : op = 1#4 ∨ s.configured = true) (hsafe : Safe es s) :
    Coherent (start op es s) := by
  have hpins : SamePins s (start op es s) := ⟨rfl, rfl, rfl, rfl, rfl, rfl, rfl⟩
  exact (coherent_iff_running rfl).mpr
    ⟨⟨rfl, List.length_pos_iff.mpr hne, hlev, hcount, hop⟩, hpins.safe hsafe⟩

theorem digitCycles_ne_nil (s : State) (text : FourBytes) (k : Nat) {is : List (Fin 4)} (h : is ≠ []) :
    digitCycles s text k is ≠ [] := by
  cases is with
  | nil => exact absurd rfl h
  | cons i is => simp [digitCycles, digitCycle]

theorem digitsBelow_ne_nil {n : Nat} (h : 1 ≤ n) : digitsBelow n ≠ [] :=
  List.ne_nil_of_mem ((mem_digitsBelow n 0).mpr h)

theorem renderExpansion_ne_nil {s : State} (text : FourBytes) (h : 1 ≤ s.ndig.toNat) : renderExpansion s text ≠ [] :=
  digitCycles_ne_nil _ _ _ (digitsBelow_ne_nil h)

theorem ndig_configure {n : Nat} (hn : n ≤ 4) (pol : Polarity) (d : FourBytes) (data clk latch : Byte) (s : State) :
    (configure pol n d data clk latch s).ndig.toNat = n := by
  simp only [configure_ndig, BitVec.toNat_ofNat]
  omega

/-- Every acceptance keeps coherence: each command's expansion is safe where the command is accepted. -/
theorem coherent_accept {i : Instr} {s t : State} (hb : s.busy = false) (h : Coherent s)
    (ht : accept i s = .next t) : Coherent t := by
  have hconf := fun hc => (coherent_iff_configured hb hc).mp h
  obtain ⟨pol, n, d0, d1, d2, d3, data, clk, latch, -, hnone, rfl⟩ | ⟨p, -, rfl⟩ |
    ⟨t0, t1, t2, t3, m, -, hc, -, rfl⟩ | ⟨b, -, -, hc, rfl⟩ | ⟨b, -, -, hc, rfl⟩ := accept_cases ht
  · obtain ⟨hc, ⟨hn1, hn4⟩, -, -⟩ := (initRefusal_eq_none_iff ..).mp hnone
    obtain ⟨-, hundriven⟩ := (coherent_iff_unconfigured hb hc).mp h
    have hndig := ndig_configure hn4 pol ⟨d0, d1, d2, d3⟩ data clk latch s
    exact coherent_start (by simp [initExpansion, serialSetup]) ⟨rfl, rfl⟩ (by rw [CountLegal, hndig]; exact ⟨hn1, hn4⟩)
      (.inl rfl) (safe_initExpansion _ hundriven ⟨rfl, rfl⟩ hndig rfl)
  · exact h.congr ⟨rfl, rfl, rfl, rfl, rfl, rfl, rfl⟩ ⟨rfl, rfl, rfl, rfl, rfl, rfl⟩
  · obtain ⟨-, hlev, hcount, hq⟩ := hconf hc
    exact coherent_start (renderExpansion_ne_nil _ hcount.1) hlev hcount (.inr hc)
      (safe_digitCycles _ _ _ (fun i => (mem_digitsBelow _ i).mp) rfl hlev hq)
  · obtain ⟨-, hlev, hcount, hq⟩ := hconf hc
    exact coherent_start (by simp [shiftOut]) hlev hcount (.inr hc) (safe_shiftOut b hlev hq)
  · obtain ⟨-, hlev, hcount, hq⟩ := hconf hc
    exact coherent_start (by simp [shiftWrite]) hlev hcount (.inr hc) (safe_shiftWrite b hlev hq)

/-! ### Ticks, steps and reachable states -/

/-- An idle moment writes RST's countdown alone. -/
theorem idleTick_eq (s : State) : ∃ r, idleTick s = { s with rstIn := r } := by
  unfold idleTick
  split
  · exact ⟨s.rstIn, rfl⟩
  · exact ⟨s.rstIn, rfl⟩
  · exact ⟨_, rfl⟩

/-- A property that reset, every tick with BUSY = 1, an idle moment and every acceptance keep is kept by every tick, as
`step_induct` says of every step. -/
theorem tick_induct {P : State → Prop} (hr : ∀ s, P s → P (engineReset s))
    (hb : ∀ s, s.busy = true → P s → P (busyTick s)) (hi : ∀ s, P s → P (idleTick s))
    (ha : ∀ (i : Instr) (s t : State) (rest : List Word), s.busy = false → P s →
      accept i { s with offered := rest } = .next t → P t)
    {s t : State} (h : P s) (ht : tick s = .next t) : P t := by
  obtain ⟨-, rfl⟩ | ⟨-, hbusy, rfl⟩ | ⟨-, -, -, rfl⟩ | ⟨w, rest, i, -, hidle, -, -, hacc⟩ := tick_cases ht
  · exact hr s h
  · exact hb s hbusy h
  · exact hi s h
  · exact ha i s t rest hidle h hacc

theorem coherent_idleTick (s : State) (h : Coherent s) : Coherent (idleTick s) := by
  obtain ⟨r, hr⟩ := idleTick_eq s
  rw [hr]
  exact h.host s.offered r

theorem coherent_accept_consumed (i : Instr) (s t : State) (rest : List Word) (hb : s.busy = false) (h : Coherent s)
    (ht : accept i { s with offered := rest } = .next t) : Coherent t :=
  coherent_accept (s := { s with offered := rest }) hb (h.host rest s.rstIn) ht

theorem coherent_tick {s t : State} (h : Coherent s) (ht : tick s = .next t) : Coherent t :=
  tick_induct (fun s _ => coherent_engineReset s) (fun _ => coherent_busyTick) coherent_idleTick
    coherent_accept_consumed h ht

theorem coherent_step {s t : State} (h : Coherent s) (ht : step s = .next t) : Coherent t :=
  step_induct (fun s _ => coherent_engineReset s) (fun _ => coherent_busyTick) coherent_idleTick
    coherent_accept_consumed h ht

/-- R36, R37: the invariant of the machine. -/
theorem coherent_of_reachable {s : State} (h : Reachable s) : Coherent s := by
  induction h with
  | powerOn params mem a b hw => exact coherent_powerOn params mem a b
  | host s ws r _ ih => exact ih.host ws r
  | tick s t _ ht ih => exact coherent_tick ih ht
  | afterRefusal s r _ ht ih => exact coherent_resetAfterRefusal _

/-- Coherent pins have at most one conducting digit now. -/
theorem Coherent.atMostOne {s : State} (h : Coherent s) : AtMostOneConducts s := by
  cases hb : s.busy with
  | true =>
    obtain ⟨-, hsafe⟩ := (coherent_iff_running hb).mp h
    exact hsafe.1 0
  | false =>
    cases hc : s.configured with
    | true =>
      obtain ⟨-, hlev, -, hq⟩ := (coherent_iff_configured hb hc).mp h
      exact (dark_of_quiescent hlev hq).atMostOne
    | false =>
      obtain ⟨-, hundriven⟩ := (coherent_iff_unconfigured hb hc).mp h
      exact (dark_of_undriven hundriven).atMostOne

/-- Coherent level registers are inverses once they are written. -/
theorem Coherent.levelsInverse {s : State} (h : Coherent s) (hw : s.configured = true ∨ s.busy = true) :
    LevelsInverse s := by
  cases hb : s.busy with
  | true =>
    obtain ⟨hrun, -⟩ := (coherent_iff_running hb).mp h
    exact hrun.levels
  | false =>
    have hc : s.configured = true := by simpa [hb] using hw
    obtain ⟨-, hlev, -⟩ := (coherent_iff_configured hb hc).mp h
    exact hlev

/-- Settles O55: reset, the sequencer, an idle moment and every acceptance keep coherence. -/
theorem tickKeepsPinsCoherent : Obligations.TickKeepsPinsCoherent := by
  unfold Obligations.TickKeepsPinsCoherent
  exact fun _ _ => coherent_tick

/-- Settles O56: the same operations, the sequencer run to idle. -/
theorem stepKeepsPinsCoherent : Obligations.StepKeepsPinsCoherent := by
  unfold Obligations.StepKeepsPinsCoherent
  exact fun _ _ => coherent_step

/-- Settles O58: coherence is an invariant, and coherent pins have at most one conducting digit. -/
theorem atMostOneDigitEverConducts : Obligations.AtMostOneDigitEverConducts := by
  unfold Obligations.AtMostOneDigitEverConducts
  exact fun _ h => (coherent_of_reachable h).atMostOne

/-- Settles O59: what coherence says of an idle and configured engine. -/
theorem configuredIdleEngineIsQuiescent : Obligations.ConfiguredIdleEngineIsQuiescent := by
  unfold Obligations.ConfiguredIdleEngineIsQuiescent
  intro s h hc hb
  obtain ⟨-, -, hcount, hq⟩ := (coherent_iff_configured hb hc).mp (coherent_of_reachable h)
  exact ⟨hq, hcount⟩

/-- Settles O60: what coherence says of the level registers. -/
theorem levelsAreInverses : Obligations.LevelsAreInverses := by
  unfold Obligations.LevelsAreInverses
  exact fun s h hw => (coherent_of_reachable h).levelsInverse (hw.imp_right And.left)

end Sys2Proof.Machine
end

section
/-! PROOFS. The event-level machine: what a tick does with a command in progress, and that a step is a tick run on until
the engine is idle (10_state.md R25, R27, R28; 60_exceptions.md R178; 70_reset_and_hazards.md R212). -/

namespace Sys2Proof.Machine

/-! ### A tick of a command in progress -/

/-- With BUSY = 1 a tick is the sequencer's, RST or not. -/
theorem tick_of_busy {s : State} (hb : s.busy = true) : tick s = .next (busyTick s) := by
  by_cases hr : s.rstIn = some 0
  · simp [tick, resetNow, busyTick, hr]
  · simp [tick, resetNow, hr, hb]

theorem busyTick_of_no_rst {s : State} (hr : s.rstIn = none) : busyTick s = sequencerStep s := by
  simp only [busyTick, hr]

theorem tick_of_running {s : State} (hb : s.busy = true) (hr : s.rstIn = none) : tick s = .next (sequencerStep s) := by
  rw [tick_of_busy hb, busyTick_of_no_rst hr]

/-- An event that has loaded no hold is over as it is emitted. -/
theorem perform_eq_emit {e : Event} {s : State} (h : (emit e s).hold = 0#16) : perform e s = emit e s := by
  rw [perform, endHold, ← h]

theorem sequencerStep_of_event_over {s : State} {e : Event} (hh : s.hold = 0#16) (he : s.expansion[s.upc]? = some e)
    (hover : (emit e s).hold = 0#16) : sequencerStep s = advance (perform e s) := by
  simp only [sequencerStep, hh, he, hover, if_true, perform_eq_emit hover]

theorem sequencerStep_of_event_holds {s : State} {e : Event} (hh : s.hold = 0#16) (he : s.expansion[s.upc]? = some e)
    (hholds : (emit e s).hold ≠ 0#16) : sequencerStep s = emit e s := by
  simp only [sequencerStep, hh, he, hholds, if_true, if_false]

theorem sequencerStep_of_hold {s : State} (hh : s.hold ≠ 0#16) : sequencerStep s = advance (endHold s) :=
  if_neg hh

theorem advance_of_lt {s : State} (h : s.upc + 1 < s.expansion.length) :
    advance s = { s with upc := s.upc + 1 } := if_neg (Nat.not_le.mpr h)

theorem advance_of_last {s : State} (h : s.upc + 1 = s.expansion.length) : advance s = complete s := if_pos h.ge

/-- Settles O14: an event that is no Wait is over at once, and its effect is on the pins alone. -/
theorem tickPerformsEventNumberUpc : Obligations.TickPerformsEventNumberUpc := by
  unfold Obligations.TickPerformsEventNumberUpc
  intro s e hb hr hh he hnw
  have htick : tick s = .next (advance (perform e s)) := by
    rw [tick_of_running hb hr, sequencerStep_of_event_over hh he ((emit_hold_of_not_wait e s hnw).trans hh)]
  refine ⟨fun hlt => ?_, fun hlast => ⟨?_, rfl⟩, rfl, ?_, ?_, ?_⟩
  · rw [htick, advance_of_lt (by simpa using hlt), perform_upc]
  · rw [htick, advance_of_last (by simpa using hlast)]
  · rintro r rfl
    exact ⟨rfl, fun q => by by_cases hq : q = r <;> simp [RoleBits.get_set, hq]⟩
  · rintro r l rfl
    exact ⟨perform_pinLevel_oe r l s, fun q => RoleBits.get_set s.lvl r q l⟩
  · rintro c p rfl
    rw [perform_memRead, ← hh]

/-- A hold of 1 to 65535 microseconds is a value of the timer other than 0. -/
theorem holdValue_ne_zero {n : Nat} (h0 : 0 < n) (hn : n < 65536) : BitVec.ofNat 16 n ≠ 0#16 := by
  intro h
  have := congrArg BitVec.toNat h
  simp only [BitVec.toNat_ofNat] at this
  omega

/-- Settles O15: one tick loads the timer, the next ends the hold; a hold of 0 is over at once. -/
theorem waitLoadsTheHoldTimer : Obligations.WaitLoadsTheHoldTimer := by
  unfold Obligations.WaitLoadsTheHoldTimer
  intro s n hb hr hh he hn
  have hperform : perform (.wait n) s = { s with trace := s.trace ++ [.wait n] } := by rw [perform_wait, ← hh]
  have hload : 0 < n → tick s = .next (emit (.wait n) s) := fun h0 => by
    rw [tick_of_running hb hr, sequencerStep_of_event_holds hh he (holdValue_ne_zero h0 hn)]
  have hend : 0 < n → ticks 2 s = .next (advance (perform (.wait n) s)) := fun h0 => by
    have hnext : tick (emit (.wait n) s) = .next (advance (perform (.wait n) s)) := by
      rw [tick_of_running (by simpa using hb) (by simpa using hr), sequencerStep_of_hold (holdValue_ne_zero h0 hn),
        perform]
    simp only [ticks, hload h0, hnext]
  have hzero : n = 0 → tick s = .next (advance (perform (.wait n) s)) := by
    rintro rfl
    rw [tick_of_running hb hr, sequencerStep_of_event_over hh he rfl]
  have hmiddle : s.upc + 1 < s.expansion.length →
      advance (perform (.wait n) s) = { s with upc := s.upc + 1, trace := s.trace ++ [.wait n] } := fun hlt => by
    rw [hperform, advance_of_lt (s := { s with trace := s.trace ++ [.wait n] }) hlt]
  have hlast : s.upc + 1 = s.expansion.length → advance (perform (.wait n) s) = complete (perform (.wait n) s) :=
    fun hl => advance_of_last (by simpa using hl)
  refine ⟨hload, fun h0 hlt => ?_, fun h0 hl => ?_, fun h0 hlt => ?_, fun h0 hl => ?_⟩
  · rw [hend h0, hmiddle hlt]
  · exact ⟨_, hend h0, by rw [hlast hl]; exact ⟨rfl, rfl, rfl⟩⟩
  · rw [hzero h0, hmiddle hlt]
  · exact ⟨_, hzero h0, by rw [hlast hl]; exact ⟨rfl, rfl, rfl⟩⟩

/-! ### A step is a tick run on until the engine is idle -/

/-- An outcome's state run on until BUSY = 0. -/
def thenRunToIdle : Host.Outcome State Fault Refusal → Host.Outcome State Fault Refusal
  | .next t => .next (runToIdle t)
  | .fault f => .fault f
  | .refused r => .refused r

/-- A command given to an idle engine is its acceptance run on until the engine is idle. -/
theorem exec_eq_thenRunToIdle (i : Instr) {s : State} (hb : s.busy = false) :
    exec i s = thenRunToIdle (accept i s) := by
  rw [exec_eq_runCommand, runCommand_of_idle _ _ hb]
  cases accept i s <;> rfl

/-- Once the engine is idle, more ticks of fuel change nothing. -/
theorem runBusy_add_of_idle {m : Nat} {s : State} (h : (runBusy m s).busy = false) (k : Nat) :
    runBusy (m + k) s = runBusy m s := by
  induction m generalizing s with
  | zero => rw [runBusy_of_idle _ s h, runBusy_of_idle _ s h]
  | succ m ih =>
    cases hb : s.busy with
    | false => rw [runBusy_of_idle _ s hb, runBusy_of_idle _ s hb]
    | true =>
      rw [runBusy_of_busy m s hb] at h ⊢
      rw [Nat.add_right_comm, runBusy_of_busy _ s hb, ih h]

/-- Any fuel that brings the engine to idle brings it where `runToIdle` does. -/
theorem runBusy_eq_runToIdle {m : Nat} {s : State} (h : (runBusy m s).busy = false) : runBusy m s = runToIdle s := by
  have hidle := runToIdle_busy s
  rw [runToIdle] at hidle ⊢
  rw [← runBusy_add_of_idle h (2 * s.expansion.length + 1), Nat.add_comm, runBusy_add_of_idle hidle]

/-- The first tick of the command in progress may be taken apart from the rest. -/
theorem runToIdle_busyTick {s : State} (hb : s.busy = true) : runToIdle (busyTick s) = runToIdle s := by
  have hstep : runToIdle s = runBusy (2 * s.expansion.length) (busyTick s) := runBusy_of_busy _ s hb
  have hidle := runToIdle_busy s
  rw [hstep] at hidle ⊢
  exact (runBusy_eq_runToIdle hidle).symm

theorem idleTick_busy (s : State) : (idleTick s).busy = s.busy := by
  obtain ⟨r, hr⟩ := idleTick_eq s
  rw [hr]

theorem runWord_exec (w : Word) {s : State} (hb : s.busy = false) :
    runWord exec w s = thenRunToIdle (runWord accept w s) := by
  unfold runWord
  cases decode s.params.diagOps w with
  | instr i => exact exec_eq_thenRunToIdle i hb
  | reservedOpcode => rfl
  | reservedField => rfl

/-- R25: the command-level machine is the event-level machine, run on until the engine is idle. -/
theorem step_eq_thenRunToIdle (s : State) : step s = thenRunToIdle (tick s) := by
  cases hr : resetNow s with
  | true =>
    have hidle : runToIdle (engineReset s) = engineReset s := runToIdle_of_idle _ rfl
    simp [step, tick, hr, thenRunToIdle, hidle]
  | false =>
    cases hb : s.busy with
    | true => simp [step, tick_of_busy hb, hr, hb, thenRunToIdle, runToIdle_busyTick hb]
    | false =>
      cases ho : offeredWord s with
      | none => simp [step, tick, hr, hb, ho, thenRunToIdle, idleTick_busy]
      | some w => simpa [step, tick, hr, hb, ho] using runWord_exec w (s := consumeWord s) hb

theorem ticks_runBusy (m : Nat) (s : State) : ∃ n, ticks n s = .next (runBusy m s) := by
  induction m generalizing s with
  | zero => exact ⟨0, rfl⟩
  | succ m ih =>
    cases hb : s.busy with
    | false => exact ⟨0, by rw [runBusy_of_idle _ s hb]; rfl⟩
    | true =>
      obtain ⟨n, hn⟩ := ih (busyTick s)
      exact ⟨n + 1, by simp only [ticks, tick_of_busy hb, runBusy_of_busy m s hb, hn]⟩

theorem ticks_runToIdle (s : State) : ∃ n, ticks n s = .next (runToIdle s) := ticks_runBusy _ s

/-- Settles O13: a step is one tick and then the ticks of the command in progress. -/
theorem stepIsARunOfTicks : Obligations.StepIsARunOfTicks := by
  unfold Obligations.StepIsARunOfTicks
  refine ⟨fun s t h => ?_, fun s r => ?_⟩
  · rw [step_eq_thenRunToIdle] at h
    cases ht : tick s with
    | next a =>
      rw [ht] at h
      cases h
      obtain ⟨n, hn⟩ := ticks_runToIdle a
      exact ⟨n + 1, by simpa only [ticks, ht] using hn⟩
    | fault f => cases f
    | refused r => rw [ht] at h; cases h
  · rw [step_eq_thenRunToIdle]
    cases tick s <;> simp [thenRunToIdle]

/-! ### The command port -/

/-- A property that each single operation of the sequencer keeps is kept by every tick with BUSY = 1. -/
theorem busyTick_induct {P : State → Prop} (hreset : ∀ s, P s → P (engineReset s))
    (hrst : ∀ s r, P s → P { s with rstIn := r }) (hemit : ∀ e s, P s → P (emit e s))
    (hend : ∀ s, P s → P (endHold s)) (hnext : ∀ s, P s → P { s with upc := s.upc + 1 })
    (hcomplete : ∀ s, P s → P (complete s)) {s : State} (h : P s) : P (busyTick s) := by
  have hadvance : ∀ u, P u → P (advance u) := by
    intro u hu
    unfold advance
    split
    · exact hcomplete u hu
    · exact hnext u hu
  obtain ⟨-, ht⟩ | ⟨u, hu, hcases⟩ := busyTick_cases s
  · exact ht ▸ hreset s h
  have hPu : P u := by
    obtain ⟨-, rfl⟩ | ⟨k, -, rfl⟩ := hu
    · exact h
    · exact hrst s _ h
  obtain ⟨-, ht⟩ | ⟨-, -, ht⟩ | ⟨e, -, -, ⟨-, ht⟩ | ⟨-, ht⟩⟩ := hcases
  · exact ht ▸ hadvance _ (hend u hPu)
  · exact ht ▸ hcomplete u hPu
  · exact ht ▸ hadvance _ (hemit e u hPu)
  · exact ht ▸ hemit e u hPu

/-- The sequencer takes no word from the port (R212). -/
@[simp] theorem busyTick_offered (s : State) : (busyTick s).offered = s.offered :=
  busyTick_induct (P := fun u => u.offered = s.offered) (fun _ h => h) (fun _ _ h => h)
    (fun e u h => (emit_offered e u).trans h) (fun _ h => h) (fun _ h => h) (fun _ h => h) rfl

@[simp] theorem runToIdle_offered (s : State) : (runToIdle s).offered = s.offered :=
  runToIdle_induct (P := fun u => u.offered = s.offered) (fun u _ h => (busyTick_offered u).trans h) rfl

/-- A command given to a busy engine is the command given when the engine is idle again (R28). -/
theorem exec_runToIdle (i : Instr) (s : State) : exec i (runToIdle s) = exec i s := by
  simp only [exec_eq_runCommand, runCommand, runToIdle_of_idle _ (runToIdle_busy s)]

theorem step_of_busy {s : State} (hb : s.busy = true) : step s = .next (runToIdle s) := by
  rw [step_eq_thenRunToIdle, tick_of_busy hb, thenRunToIdle, runToIdle_busyTick hb]

/-- Settles O11: the run to idle comes first and leaves the port alone. -/
theorem busyEngineMakesTheWordWait : Obligations.BusyEngineMakesTheWordWait := by
  unfold Obligations.BusyEngineMakesTheWordWait
  intro s hb _
  exact ⟨⟨_, step_of_busy hb, runToIdle_busy s, runToIdle_offered s⟩, ⟨_, tick_of_busy hb, busyTick_offered s⟩,
    fun i => ⟨_, step_of_busy hb, (exec_runToIdle i s).symm⟩⟩

/-- Settles O10: the word at the port is consumed and its command run. -/
theorem stepRunsTheDecodedCommand : Obligations.StepRunsTheDecodedCommand := by
  unfold Obligations.StepRunsTheDecodedCommand
  intro s w rest i hb hr ho hd
  have hconsume : consumeWord s = { s with offered := rest } := by rw [consumeWord, ho, List.tail_cons]
  simp [step, resetNow, hr, hb, offeredWord, ho, hconsume, runWord, hd]

/-! ### Power-on -/

/-- Settles O7: the reset table, with every line undriven because OE is 0. -/
theorem powerOnLeavesResetValues : Obligations.PowerOnLeavesResetValues := by
  unfold Obligations.PowerOnLeavesResetValues
  intro params mem a b
  refine ⟨rfl, rfl, rfl, rfl, fun r => ⟨RoleBits.get_zero r, RoleBits.get_zero r, ?_⟩, rfl, rfl, rfl⟩
  exact if_neg (Bool.eq_false_iff.mp (RoleBits.get_zero r))

theorem brightnessLegal_powerOn (params : Params) (mem : Memory) (a b : Byte) :
    BrightnessLegal (State.powerOn params mem a b) :=
  fun h => by cases h

/-- Settles O57: power-on is the idle and unconfigured kind of coherence, and no brightness is written yet. -/
theorem powerOnIsCoherent : Obligations.PowerOnIsCoherent := by
  unfold Obligations.PowerOnIsCoherent
  exact ⟨fun params mem a b => ⟨coherent_powerOn params mem a b, brightnessLegal_powerOn params mem a b⟩,
    coherent_powerOn .., brightnessLegal_powerOn _ _ _ _, default_tableWf⟩

end Sys2Proof.Machine
end

section
/-! PROOFS. What each accepted command leaves unchanged, and the range of the brightness registers (10_state.md R21 to
R24, R28, R34, R36; 40_configuration.md R105, R106; 42_shift.md R133; 43_render.md R159). -/

namespace Sys2Proof.Machine

/-! ### What a command given to a ready engine can do -/

theorem acceptable_of_exec {i : Instr} {s t : State} (hs : Ready s) (h : exec i s = .next t) :
    acceptable i s = true := by
  rw [exec_eq_thenRunToIdle i hs.1] at h
  cases ha : accept i s with
  | next a => exact acceptable_of_accept ha
  | fault f => cases f
  | refused r => rw [ha] at h; cases h

theorem exec_init {pol : Polarity} {n : Nat} {d0 d1 d2 d3 data clk latch : Byte} {s : State} (hs : Ready s)
    (h : acceptable (.init pol n d0 d1 d2 d3 data clk latch) s = true) :
    exec (.init pol n d0 d1 d2 d3 data clk latch) s =
      .next (completeAtOnce 1#4 (initExpansion n (!(digitOnOf s.params.levels pol)) s.params.allOff)
        (configure pol n { b0 := d0, b1 := d1, b2 := d2, b3 := d3 } data clk latch s)) :=
  exec_of_start hs.1 (accept_init h) hs.2

theorem exec_setbrt {p : Int} {s : State} (hs : Ready s) :
    exec (.setbrt p) s =
      .next (setBrtValid
        { s with
          bright := BitVec.ofNat 7 (clampPercent p)
          onTime := BitVec.ofNat 16 (onTimeOf s.params.round s.params.framePeriod.toNat (clampPercent p)) }) :=
  exec_of_idle_next hs.1 rfl hs.1

theorem exec_render {t0 t1 t2 t3 m : Byte} {s : State} (hs : Ready s)
    (h : acceptable (.render t0 t1 t2 t3 m) s = true) :
    exec (.render t0 t1 t2 t3 m) s =
      .next (completeAtOnce 3#4 (renderExpansion s { b0 := t0, b1 := t1, b2 := t2, b3 := t3 })
        (latchText { b0 := t0, b1 := t1, b2 := t2, b3 := t3 } m s)) := by
  obtain ⟨hc, hv⟩ := Bool.and_eq_true_iff.mp h
  exact exec_of_start hs.1 (accept_render hc hv) hs.2

theorem exec_shout {b : Byte} {s : State} (hs : Ready s) (h : acceptable (.shout b) s = true) :
    exec (.shout b) s = .next (completeAtOnce 4#4 (shiftOut b) s) := by
  obtain ⟨hd, hc⟩ := Bool.and_eq_true_iff.mp h
  exact exec_of_start hs.1 (accept_shout hd hc) hs.2

theorem exec_shwr {b : Byte} {s : State} (hs : Ready s) (h : acceptable (.shwr b) s = true) :
    exec (.shwr b) s = .next (completeAtOnce 5#4 (shiftWrite b) s) := by
  obtain ⟨hd, hc⟩ := Bool.and_eq_true_iff.mp h
  exact exec_of_start hs.1 (accept_shwr hd hc) hs.2

/-- Settles O50: each register a command's acceptance does not write is left alone by its events too. -/
theorem registersHaveOneWriter : Obligations.RegistersHaveOneWriter := by
  unfold Obligations.RegistersHaveOneWriter
  intro i s t hs h
  have hok := acceptable_of_exec hs h
  cases i with
  | init pol n d0 d1 d2 d3 data clk latch =>
    rw [exec_init hs hok] at h
    cases h
    exact ⟨fun hne => (hne _ _ _ _ _ _ _ _ _ rfl).elim, by simp [completeAtOnce_eq]⟩
  | setbrt p =>
    rw [exec_setbrt hs] at h
    cases h
    exact ⟨by simp, fun hne => absurd rfl (hne p), by simp⟩
  | render t0 t1 t2 t3 m =>
    rw [exec_render hs hok] at h
    cases h
    simp [completeAtOnce_eq]
  | shout b =>
    rw [exec_shout hs hok] at h
    cases h
    simp [completeAtOnce_eq]
  | shwr b =>
    rw [exec_shwr hs hok] at h
    cases h
    simp [completeAtOnce_eq]

/-! ### Directions -/

theorem completeAtOnce_oe (op : BitVec 4) (es : List Event) (s : State) :
    (completeAtOnce op es s).oe = (performAll es s).oe := by
  rw [completeAtOnce_eq]

/-- An event that makes a line an output. -/
def isPinDir : Event → Bool
  | .pinDir _ => true
  | .pinLevel _ _ => false
  | .wait _ => false
  | .memRead _ _ => false

/-- No event turns a line back into an input (R17). -/
theorem performAll_oe_mono (es : List Event) {s : State} {r : Role} (h : s.oe.get r = true) :
    (performAll es s).oe.get r = true := by
  induction es generalizing s with
  | nil => exact h
  | cons e es ih =>
    refine ih ?_
    cases e with
    | pinDir q => simp [RoleBits.get_set, h]
    | pinLevel q l => simpa using h
    | wait n => exact h
    | memRead c p => exact h

theorem performAll_oe_of_no_pinDir {es : List Event} (hes : ∀ e ∈ es, isPinDir e = false) (s : State) :
    (performAll es s).oe = s.oe := by
  induction es generalizing s with
  | nil => rfl
  | cons e es ih =>
    obtain ⟨he, hes⟩ := List.forall_mem_cons.mp hes
    rw [performAll_cons, ih hes]
    cases e with
    | pinDir q => cases he
    | pinLevel q l => exact perform_pinLevel_oe q l s
    | wait n => rfl
    | memRead c p => rfl

/-- What each digit's cycle keeps, the cycles of a list of digits keep. -/
theorem digitCycles_induct {P : State → Prop} {s : State} (text : FourBytes)
    (h : ∀ i c p u, P u → P (performAll (digitCycle s i c p) u)) (k : Nat) (is : List (Fin 4)) {u : State}
    (hu : P u) : P (performAll (digitCycles s text k is) u) := by
  induction is generalizing k u with
  | nil => exact hu
  | cons i is ih =>
    rw [digitCycles, performAll_append]
    exact ih _ (h i _ _ u hu)

theorem digitCycle_isPinDir (s : State) (i : Fin 4) (c p : Byte) : ∀ e ∈ digitCycle s i c p, isPinDir e = false := by
  have hall : (digitCycle s i c p).all (fun e => !isPinDir e) = true := rfl
  simpa using hall

theorem shiftOut_isPinDir (v : Byte) : ∀ e ∈ shiftOut v, isPinDir e = false := by
  have hall : (shiftOut v).all (fun e => !isPinDir e) = true := rfl
  simpa using hall

theorem shiftWrite_isPinDir (v : Byte) : ∀ e ∈ shiftWrite v, isPinDir e = false := by
  have hall : (shiftWrite v).all (fun e => !isPinDir e) = true := rfl
  simpa using hall

/-- RENDER moves no direction. -/
theorem performAll_renderExpansion_oe (s : State) (text : FourBytes) (u : State) :
    (performAll (renderExpansion s text) u).oe = u.oe :=
  digitCycles_induct (P := fun v => v.oe = u.oe) text
    (fun i c p v hv => (performAll_oe_of_no_pinDir (digitCycle_isPinDir s i c p) v).trans hv) _ _ rfl

/-- Settles O51: no event clears a bit of OE, and only INIT's expansion has a `PinDir`. -/
theorem outputsStayEnabled : Obligations.OutputsStayEnabled := by
  unfold Obligations.OutputsStayEnabled
  intro i s t hs h
  have hok := acceptable_of_exec hs h
  have of_same : t.oe = s.oe → (∀ r, s.oe.get r = true → t.oe.get r = true) ∧
      ((∀ pol n d0 d1 d2 d3 data clk latch, i ≠ .init pol n d0 d1 d2 d3 data clk latch) → t.oe = s.oe) :=
    fun hoe => ⟨fun r hr => by rwa [hoe], fun _ => hoe⟩
  cases i with
  | init pol n d0 d1 d2 d3 data clk latch =>
    rw [exec_init hs hok] at h
    cases h
    refine ⟨fun r hr => ?_, fun hne => (hne _ _ _ _ _ _ _ _ _ rfl).elim⟩
    rw [completeAtOnce_oe]
    exact performAll_oe_mono _ hr
  | setbrt p =>
    rw [exec_setbrt hs] at h
    cases h
    exact of_same rfl
  | render t0 t1 t2 t3 m =>
    rw [exec_render hs hok] at h
    cases h
    exact of_same (by rw [completeAtOnce_oe, performAll_renderExpansion_oe, latchText_oe])
  | shout b =>
    rw [exec_shout hs hok] at h
    cases h
    exact of_same (by rw [completeAtOnce_oe, performAll_oe_of_no_pinDir (shiftOut_isPinDir b)])
  | shwr b =>
    rw [exec_shwr hs hok] at h
    cases h
    exact of_same (by rw [completeAtOnce_oe, performAll_oe_of_no_pinDir (shiftWrite_isPinDir b)])

/-! ### The external register -/

/-- The cycles of at least one digit, with the serial lines driven, blank the external register (R159). -/
theorem blank_after_digitCycles {s u : State} (text : FourBytes) (k : Nat) {is : List (Fin 4)} (hne : is ≠ [])
    (hu : SerialDriven u) (hp : u.params = s.params) : Blank (performAll (digitCycles s text k is) u) := by
  have hcycle : ∀ i c p v, SerialDriven v ∧ v.params = s.params →
      (SerialDriven (performAll (digitCycle s i c p) v) ∧ (performAll (digitCycle s i c p) v).params = s.params) ∧
        Blank (performAll (digitCycle s i c p) v) := by
    rintro i c p v ⟨hv, hpv⟩
    rw [performAll_digitCycle s v i c p hv]
    exact ⟨⟨hv, hpv⟩, by rw [Blank, hpv]; exact ⟨rfl, rfl⟩⟩
  cases is with
  | nil => exact absurd rfl hne
  | cons i is =>
    rw [digitCycles, performAll_append]
    exact (digitCycles_induct (P := fun v => (SerialDriven v ∧ v.params = s.params) ∧ Blank v) text
      (fun i c p v hv => hcycle i c p v hv.1) _ is (hcycle i _ _ u ⟨hu, hp⟩)).2

theorem blank_after_renderExpansion {s u : State} (text : FourBytes) (hn : 1 ≤ s.ndig.toNat) (hu : SerialDriven u)
    (hp : u.params = s.params) : Blank (performAll (renderExpansion s text) u) :=
  blank_after_digitCycles text _ (digitsBelow_ne_nil hn) hu hp

/-- A command whose expansion blanks the register ends with it blank. -/
theorem Blank.completeAtOnce {op : BitVec 4} {es : List Event} {s : State} (h : Blank (performAll es s)) :
    Blank (completeAtOnce op es s) := by
  rw [completeAtOnce_eq]
  exact h

/-- Settles O52: INIT, RENDER and that SHWR end with a SHIFTWRITE of ALL_OFF_BYTE on driven lines. -/
theorem blankRegisterIsRestored : Obligations.BlankRegisterIsRestored := by
  unfold Obligations.BlankRegisterIsRestored
  intro s t hs hconf
  refine ⟨?_, ?_, ?_, ?_⟩
  · intro pol n d0 d1 d2 d3 data clk latch h
    rw [exec_init hs (acceptable_of_exec hs h)] at h
    cases h
    refine Blank.completeAtOnce ?_
    rw [performAll_initExpansion]
    simp [Blank]
  · intro t0 t1 t2 t3 m h
    have hok := acceptable_of_exec hs h
    obtain ⟨hc, -⟩ := Bool.and_eq_true_iff.mp hok
    obtain ⟨hdriven, hdigits⟩ := hconf hc
    rw [exec_render hs hok] at h
    cases h
    exact (blank_after_renderExpansion (u := latchText ⟨t0, t1, t2, t3⟩ m s) _ hdigits hdriven rfl).completeAtOnce
  · intro h
    have hok := acceptable_of_exec hs h
    obtain ⟨-, hc⟩ := Bool.and_eq_true_iff.mp hok
    rw [exec_shwr hs hok] at h
    cases h
    refine Blank.completeAtOnce ?_
    rw [performAll_shiftWrite _ _ (hconf hc).1]
    exact ⟨rfl, rfl⟩
  · intro p h
    rw [exec_setbrt hs] at h
    cases h
    exact ⟨rfl, rfl, id⟩

/-! ### The pin map -/

/-- The pins of the used roles after INIT are the pins INIT was given, in order (R24, R105). -/
theorem usedRoles_map_pinOf {pol : Polarity} {n : Nat} {d0 d1 d2 d3 data clk latch : Byte} {s t : State}
    (hs : Ready s) (h : exec (.init pol n d0 d1 d2 d3 data clk latch) s = .next t) :
    (usedRoles t).map (pinOf t) = usedPins n d0 d1 d2 d3 data clk latch := by
  have hok := acceptable_of_exec hs h
  rw [exec_init hs hok] at h
  cases h
  simp only [acceptable, Bool.and_eq_true, decide_eq_true_eq] at hok
  obtain ⟨⟨⟨-, hn1, hn4⟩, -⟩, -⟩ := hok
  interval_cases n <;>
    simp [usedRoles, usedPins, pinOf, completeAtOnce_eq, digitsBelow, digitRole, FourBytes.writeBelow]

/-- With the used pins distinct, a used role is the first one found at its own pin. -/
theorem pinLine_pinOf {s : State} {r : Role}
    (hinj : ∀ r ∈ usedRoles s, ∀ q ∈ usedRoles s, pinOf s r = pinOf s q → r = q) (hr : r ∈ usedRoles s) :
    pinLine s (pinOf s r) = line s r := by
  unfold pinLine
  cases hf : (usedRoles s).find? fun q => decide (pinOf s q = pinOf s r) with
  | none =>
    have hnone := List.find?_eq_none.mp hf r hr
    simp at hnone
  | some q =>
    have hq : pinOf s q = pinOf s r := by simpa using List.find?_some hf
    rw [hinj q (List.mem_of_find?_eq_some hf) r hr hq]

/-- Settles O24: INIT's fourth test is that the used pins are distinct. -/
theorem pinMapIsInjectiveAfterInit : Obligations.PinMapIsInjectiveAfterInit := by
  unfold Obligations.PinMapIsInjectiveAfterInit
  intro pol n d0 d1 d2 d3 data clk latch s t hs h
  have hnodup : ((usedRoles t).map (pinOf t)).Nodup := by
    have hok := acceptable_of_exec hs h
    obtain ⟨-, hdistinct⟩ := Bool.and_eq_true_iff.mp hok
    rw [usedRoles_map_pinOf hs h]
    exact (pinsDistinct_iff _).mp hdistinct
  have hinj : ∀ r ∈ usedRoles t, ∀ q ∈ usedRoles t, pinOf t r = pinOf t q → r = q :=
    fun r hr q hq => List.inj_on_of_nodup_map hnodup hr hq
  exact ⟨hinj, fun r hr => pinLine_pinOf hinj hr⟩

/-! ### The range of the brightness registers -/

theorem clampPercent_le (p : Int) : clampPercent p ≤ 100 := by
  unfold clampPercent
  split_ifs <;> omega

/-- A percentage of the period is at most the period, whichever way it is rounded (R123). -/
theorem onTimeOf_le (round : Rounding) (period : Nat) {c : Nat} (hc : c ≤ 100) : onTimeOf round period c ≤ period := by
  have hmul : c * period ≤ 100 * period := Nat.mul_le_mul_right period hc
  cases round <;> simp only [onTimeOf] <;> omega

theorem brightnessLegal_setbrt (p : Int) (s : State) :
    BrightnessLegal (setBrtValid
      { s with
        bright := BitVec.ofNat 7 (clampPercent p)
        onTime := BitVec.ofNat 16 (onTimeOf s.params.round s.params.framePeriod.toNat (clampPercent p)) }) := by
  have hc := clampPercent_le p
  have ht := onTimeOf_le s.params.round s.params.framePeriod.toNat hc
  intro _
  exact ⟨(Nat.mod_le _ _).trans hc, (Nat.mod_le _ _).trans ht⟩

theorem brightnessLegal_accept (i : Instr) (s t : State) (rest : List Word) (_ : s.busy = false)
    (h : BrightnessLegal s) (ht : accept i { s with offered := rest } = .next t) : BrightnessLegal t := by
  obtain ⟨pol, n, d0, d1, d2, d3, data, clk, latch, -, -, rfl⟩ | ⟨p, -, rfl⟩ |
    ⟨t0, t1, t2, t3, m, -, -, -, rfl⟩ | ⟨b, -, -, -, rfl⟩ | ⟨b, -, -, -, rfl⟩ := accept_cases ht
  · exact h
  · exact brightnessLegal_setbrt p _
  · exact h
  · exact h
  · exact h

theorem brightnessLegal_engineReset (s : State) : BrightnessLegal (engineReset s) := fun h => by cases h

theorem brightnessLegal_busyTick {s : State} (h : BrightnessLegal s) : BrightnessLegal (busyTick s) :=
  busyTick_induct (P := BrightnessLegal) (fun s _ => brightnessLegal_engineReset s) (fun _ _ h => h)
    (fun e u hu => by simpa [BrightnessLegal] using hu) (fun _ h => h) (fun _ h => h) (fun _ h => h) h

theorem brightnessLegal_idleTick (s : State) (h : BrightnessLegal s) : BrightnessLegal (idleTick s) := by
  obtain ⟨r, hr⟩ := idleTick_eq s
  rw [hr]
  exact h

theorem brightnessLegal_tick {s t : State} (h : BrightnessLegal s) (ht : tick s = .next t) : BrightnessLegal t :=
  tick_induct (P := BrightnessLegal) (fun s _ => brightnessLegal_engineReset s) (fun _ _ => brightnessLegal_busyTick)
    brightnessLegal_idleTick brightnessLegal_accept h ht

theorem brightnessLegal_step {s t : State} (h : BrightnessLegal s) (ht : step s = .next t) : BrightnessLegal t :=
  step_induct (P := BrightnessLegal) (fun s _ => brightnessLegal_engineReset s) (fun _ _ => brightnessLegal_busyTick)
    brightnessLegal_idleTick brightnessLegal_accept h ht

theorem brightnessLegal_of_reachable {s : State} (h : Reachable s) : BrightnessLegal s := by
  induction h with
  | powerOn params mem a b hw => exact brightnessLegal_powerOn params mem a b
  | host s ws r _ ih => exact ih
  | tick s t _ ht ih => exact brightnessLegal_tick ih ht
  | afterRefusal s r _ ht ih => exact fun h => by cases h

/-- Settles O54: only SETBRT writes the brightness registers, and it writes legal values. -/
theorem stepKeepsBrightnessLegal : Obligations.StepKeepsBrightnessLegal := by
  unfold Obligations.StepKeepsBrightnessLegal
  rintro s t h (ht | ht)
  · exact brightnessLegal_step h ht
  · exact brightnessLegal_tick h ht

/-- Settles O20: OFF_TIME is what the legal ON_TIME leaves of the period. -/
theorem onTimePlusOffTimeIsFramePeriod : Obligations.OnTimePlusOffTimeIsFramePeriod := by
  unfold Obligations.OnTimePlusOffTimeIsFramePeriod
  intro s h hv
  obtain ⟨-, hle⟩ := brightnessLegal_of_reachable h hv
  exact ⟨hle, Nat.add_sub_cancel' hle⟩

end Sys2Proof.Machine
end

section
/-! PROOFS. The eight bytes of a command word, the serial frame as seen by the external register, and the glyph ROM that
no operation writes (20_memory.md R54, R55, R57; 42_shift.md R130 to R136). -/

namespace Sys2Proof

/-! ### A word in bytes -/

/-- The bits of a slice put back in its place are those of the word there. -/
theorem getLsbD_fieldAt_slice (w : Word) (lo n i : Nat) :
    (fieldAt lo (w.extractLsb' lo n)).getLsbD i = (decide (lo ≤ i ∧ i < lo + n) && w.getLsbD i) := by
  rw [getLsbD_fieldAt, BitVec.getLsbD_extractLsb']
  by_cases hlo : lo ≤ i
  · have hn : i - lo < n ↔ i < lo + n := by omega
    by_cases hi : i < 64
    · simp [hlo, hi, hn]
    · simp [hi, BitVec.getLsbD_of_ge w i (Nat.not_lt.mp hi)]
  · simp [hlo]

/-- Two neighbouring slices put back side by side are one longer slice put back. -/
theorem fieldAt_slice_or (w : Word) (lo n m : Nat) :
    fieldAt (lo + n) (w.extractLsb' (lo + n) m) ||| fieldAt lo (w.extractLsb' lo n) =
      fieldAt lo (w.extractLsb' lo (n + m)) := by
  apply BitVec.eq_of_getLsbD_eq
  intro i _
  have hspan : (lo + n ≤ i ∧ i < lo + n + m) ∨ (lo ≤ i ∧ i < lo + n) ↔ lo ≤ i ∧ i < lo + (n + m) := by omega
  simp only [BitVec.getLsbD_or, getLsbD_fieldAt_slice, ← Bool.and_or_distrib_right, ← Bool.decide_or, hspan]

/-- A word is put together again from its bytes (R55 (c)). -/
theorem wordOfBytes_byteAt (w : Word) :
    wordOfBytes (byteAt w 56) (byteAt w 48) (byteAt w 40) (byteAt w 32) (byteAt w 24) (byteAt w 16) (byteAt w 8)
      (byteAt w 0) = w := by
  unfold wordOfBytes byteAt
  rw [fieldAt_slice_or w 48 8 8, fieldAt_slice_or w 40 8 16, fieldAt_slice_or w 32 8 24, fieldAt_slice_or w 24 8 32,
    fieldAt_slice_or w 16 8 40, fieldAt_slice_or w 8 8 48, fieldAt_slice_or w 0 8 56]
  simp [fieldAt]

theorem decodeBytes_wordBytes_append (diag : Bool) (w : Word) (rest : List Byte) :
    decodeBytes diag (wordBytes w ++ rest) = .word (decode diag w) rest := by
  simp only [wordBytes, List.cons_append, List.nil_append, decodeBytes, wordOfBytes_byteAt]

/-- Fewer than eight bytes are no word (R70). -/
theorem decodeBytes_of_length_lt (diag : Bool) {bs : List Byte} (h : bs.length < 8) :
    decodeBytes diag bs = .incomplete := by
  unfold decodeBytes
  split
  · simp only [List.length_cons] at h
    omega
  · rfl

/-- Settles O5: the eight bytes put together again are the word. -/
theorem wordBytesGoMostSignificantFirst : Obligations.WordBytesGoMostSignificantFirst := by
  unfold Obligations.WordBytesGoMostSignificantFirst
  intro diag w rest
  exact ⟨decodeBytes_wordBytes_append diag w rest, rfl, fun _ => decodeBytes_of_length_lt diag⟩

end Sys2Proof

namespace Sys2Proof.Machine

/-! ### The clock edges of SHIFTOUT -/

/-- A bit cell has one rising edge of the clock, whatever level it finds, and ends with the clock high (R81). -/
theorem risingEdges_bitCell_append (clk b : Bool) (es : List Event) :
    risingEdges clk (bitCell b ++ es) = risingEdges true es + 1 := rfl

theorem clockPulses_bitCell_append (b : Bool) (es : List Event) :
    clockPulses (bitCell b ++ es) = clockPulses es + 1 := rfl

/-- The data level at the edge of a bit cell is its bit, and the cell ends with the data low (R81, R134). -/
theorem clockedBits_bitCell_append (d b : Bool) (es : List Event) :
    clockedBits d (bitCell b ++ es) = b :: clockedBits false es := rfl

theorem risingEdges_shiftOut (clk : Bool) (v : Byte) : risingEdges clk (shiftOut v) = 8 := by
  simp only [shiftOut, List.append_assoc, risingEdges_bitCell_append, risingEdges]

theorem clockPulses_shiftOut (v : Byte) : clockPulses (shiftOut v) = 8 := by
  simp only [shiftOut, List.append_assoc, clockPulses_bitCell_append, clockPulses]

theorem clockedBits_shiftOut (d : Bool) (v : Byte) : clockedBits d (shiftOut v) = msbFirst v := by
  simp only [shiftOut, List.append_assoc, clockedBits_bitCell_append, clockedBits, msbFirst]

/-- SHIFTOUT ends with the clock low, driven or not (R130). -/
theorem performAll_shiftOut_sclk (v : Byte) (s : State) : (performAll (shiftOut v) s).lvl.sclk = false := by
  rw [shiftOut, performAll_append, performAll_cons, performAll_nil, perform_pinLevel_lvl]
  rfl

/-- Settles O30: one edge, with its bit, for each of the eight cells. -/
theorem eightEdgesCarryTheByte : Obligations.EightEdgesCarryTheByte := by
  unfold Obligations.EightEdgesCarryTheByte
  intro v d s
  exact ⟨risingEdges_shiftOut false v, clockPulses_shiftOut v, clockedBits_shiftOut d v, performAll_shiftOut_sclk v s⟩

/-! ### The output stage of the external register -/

/-- The output stage takes the shift stage at a rising latch edge and keeps its own otherwise (R180). -/
theorem registerReaction_srOut (r : Role) (l : Bool) (s : State) :
    (registerReaction r l s).srOut = if r = .slatch ∧ isRisingEdge s r l = true then s.srShift else s.srOut := by
  cases r with
  | sclk => simp only [registerReaction, reduceCtorEq, false_and, if_false]; split <;> rfl
  | slatch => simp only [registerReaction, true_and]; split <;> rfl
  | dig0 | dig1 | dig2 | dig3 | sdata => rfl

/-- Only the latch line written to 1 can change the output stage (R57, R180). -/
theorem perform_srOut_of_ne {e : Event} (he : e ≠ .pinLevel .slatch true) (s : State) :
    (perform e s).srOut = s.srOut := by
  cases e with
  | pinLevel r l =>
    refine (registerReaction_srOut r l s).trans (if_neg ?_)
    rintro ⟨rfl, hedge⟩
    cases l with
    | false => cases hedge
    | true => exact he rfl
  | pinDir r => rfl
  | wait n => rfl
  | memRead c p => rfl

theorem throughout_srOut_of_not_mem {es : List Event} (h : Event.pinLevel .slatch true ∉ es) (s : State) :
    Throughout (fun u => u.srOut = s.srOut) es s :=
  throughout_of_kept (fun _ he u hu => (perform_srOut_of_ne (fun heq => h (heq ▸ he)) u).trans hu) rfl

/-- SHIFTOUT never raises the latch line (R57). -/
theorem latchHigh_not_mem_shiftOut (v : Byte) : Event.pinLevel .slatch true ∉ shiftOut v := by
  simp [shiftOut, bitCell]

/-- Nor does SHIFTWRITE before its last event (R131). -/
theorem latchHigh_not_mem_shiftWrite_take (v : Byte) {k : Nat} (hk : k ≤ 34) :
    Event.pinLevel .slatch true ∉ (shiftWrite v).take k := by
  have hfront : (shiftWrite v).take k = (Event.pinLevel .slatch false :: shiftOut v).take k :=
    List.take_append_of_le_length hk
  intro hmem
  rw [hfront] at hmem
  simpa [latchHigh_not_mem_shiftOut] using List.mem_of_mem_take hmem

/-- Settles O32: the latch line is raised by the last event of SHIFTWRITE alone. -/
theorem outputsChangeOnlyAtTheLatch : Obligations.OutputsChangeOnlyAtTheLatch := by
  unfold Obligations.OutputsChangeOnlyAtTheLatch
  intro v s k
  refine ⟨fun hk => (throughout_srOut_of_not_mem (latchHigh_not_mem_shiftWrite_take v hk) s).at_end, fun hk hs => ?_,
    throughout_srOut_of_not_mem (latchHigh_not_mem_shiftOut v) s k⟩
  rw [List.take_of_length_le hk, performAll_shiftWrite v s hs]

/-! ### The parameters and the glyph ROM -/

/-- `u` has the parameters and the glyph ROM of `s` (R20, R54). -/
structure SameTable (s u : State) : Prop where
  params : u.params = s.params
  mem : u.mem = s.mem

theorem SameTable.refl (s : State) : SameTable s s := ⟨rfl, rfl⟩

theorem sameTable_engineReset {r s : State} (h : SameTable r s) : SameTable r (engineReset s) := ⟨h.params, h.mem⟩

theorem sameTable_busyTick {r s : State} (h : SameTable r s) : SameTable r (busyTick s) :=
  busyTick_induct (P := SameTable r) (fun _ => sameTable_engineReset) (fun _ _ h => ⟨h.params, h.mem⟩)
    (fun e u h => ⟨(emit_params e u).trans h.params, (emit_mem e u).trans h.mem⟩)
    (fun _ h => ⟨h.params, h.mem⟩) (fun _ h => ⟨h.params, h.mem⟩) (fun _ h => ⟨h.params, h.mem⟩) h

theorem sameTable_idleTick {r s : State} (h : SameTable r s) : SameTable r (idleTick s) := by
  obtain ⟨c, hc⟩ := idleTick_eq s
  rw [hc]
  exact ⟨h.params, h.mem⟩

/-- An acceptance writes engine registers alone. -/
theorem sameTable_accept {r s t : State} {i : Instr} (h : SameTable r s) (ht : accept i s = .next t) :
    SameTable r t := by
  obtain ⟨pol, n, d0, d1, d2, d3, data, clk, latch, -, -, rfl⟩ | ⟨p, -, rfl⟩ |
    ⟨t0, t1, t2, t3, m, -, -, -, rfl⟩ | ⟨b, -, -, -, rfl⟩ | ⟨b, -, -, -, rfl⟩ := accept_cases ht
  all_goals exact ⟨h.params, h.mem⟩

theorem sameTable_accept_consumed {r : State} (i : Instr) (s t : State) (rest : List Word) (_ : s.busy = false)
    (h : SameTable r s) (ht : accept i { s with offered := rest } = .next t) : SameTable r t :=
  sameTable_accept (s := { s with offered := rest }) ⟨h.params, h.mem⟩ ht

theorem sameTable_tick {s t : State} (ht : tick s = .next t) : SameTable s t :=
  tick_induct (P := SameTable s) (fun _ => sameTable_engineReset) (fun _ _ => sameTable_busyTick)
    (fun _ => sameTable_idleTick) sameTable_accept_consumed (.refl s) ht

theorem sameTable_step {s t : State} (ht : step s = .next t) : SameTable s t :=
  step_induct (P := SameTable s) (fun _ => sameTable_engineReset) (fun _ _ => sameTable_busyTick)
    (fun _ => sameTable_idleTick) sameTable_accept_consumed (.refl s) ht

/-- Settles O53: the ROM and the parameters are the same, so every claim about them is. -/
theorem glyphRomIsImmutable : Obligations.GlyphRomIsImmutable := by
  unfold Obligations.GlyphRomIsImmutable
  intro s t h
  obtain ⟨hparams, hmem⟩ : SameTable s t := h.elim sameTable_step sameTable_tick
  rw [hparams, hmem]
  exact ⟨rfl, rfl, id, id, fun _ => rfl⟩

end Sys2Proof.Machine
end

section
/-! PROOFS. The command word and its command: the decoder inverts the encoder and drops no bit, the reserved words, the
words and lines of the test vectors, and the serial frames (30_encoding.md R70 to R85; 95_test_vectors.md 2.1). -/

namespace Sys2Proof

/-! ### The formats with reserved bits (R73 to R75, R78) -/

theorem decodeSetbrt_of_reserved_zero {w : Word} (h : w.extractLsb' 16 44 = 0#44) :
    decodeSetbrt w = .instr (.setbrt (w.extractLsb' 0 16).toInt) := if_pos h

theorem decodeSetbrt_of_reserved_ne {w : Word} (h : w.extractLsb' 16 44 ≠ 0#44) :
    decodeSetbrt w = .reservedField := if_neg h

theorem decodeRender_of_reserved_zero {w : Word} (h : w.extractLsb' 40 20 = 0#20) :
    decodeRender w = .instr (.render (byteAt w 32) (byteAt w 24) (byteAt w 16) (byteAt w 8) (byteAt w 0)) := if_pos h

theorem decodeRender_of_reserved_ne {w : Word} (h : w.extractLsb' 40 20 ≠ 0#20) :
    decodeRender w = .reservedField := if_neg h

theorem decodeShout_of_reserved_zero {w : Word} (h : w.extractLsb' 8 52 = 0#52) :
    decodeShout w = .instr (.shout (byteAt w 0)) := if_pos h

theorem decodeShout_of_reserved_ne {w : Word} (h : w.extractLsb' 8 52 ≠ 0#52) :
    decodeShout w = .reservedField := if_neg h

theorem decodeShwr_of_reserved_zero {w : Word} (h : w.extractLsb' 8 52 = 0#52) :
    decodeShwr w = .instr (.shwr (byteAt w 0)) := if_pos h

theorem decodeShwr_of_reserved_ne {w : Word} (h : w.extractLsb' 8 52 ≠ 0#52) :
    decodeShwr w = .reservedField := if_neg h

/-! ### From the command to its word and back -/

theorem toInt_ofInt_of_fitsPercent {p : Int} (h : fitsPercent p = true) : (BitVec.ofInt 16 p).toInt = p := by
  simp only [fitsPercent, Bool.and_eq_true, decide_eq_true_eq] at h
  exact BitVec.toInt_ofInt_eq_self (by decide) (by omega) (by omega)

theorem toNat_ofNat_of_fitsCount {n : Nat} (h : fitsCount n = true) : (BitVec.ofNat 3 n).toNat = n :=
  Nat.mod_eq_of_lt (of_decide_eq_true h)

/-- The one-bit polarity field of an INIT word (R72, R87). -/
theorem getLsbD_59_encode_init (pol : Polarity) (n : Nat) (d0 d1 d2 d3 data clk latch : Byte) :
    (encode (.init pol n d0 d1 d2 d3 data clk latch)).getLsbD 59 = bitOfPolarity pol := by
  rw [← BitVec.ofBool_eq_iff_eq, getLsbD_eq_slice]
  simp (disch := decide) only [encode, slice_or, slice_fieldAt_same, slice_fieldAt_above, slice_fieldAt_below,
    BitVec.or_zero, BitVec.zero_or]

theorem decodeInit_encode (pol : Polarity) {n : Nat} (d0 d1 d2 d3 data clk latch : Byte) (h : fitsCount n = true) :
    decodeInit (encode (.init pol n d0 d1 d2 d3 data clk latch)) =
      .instr (.init pol n d0 d1 d2 d3 data clk latch) := by
  rw [decodeInit, getLsbD_59_encode_init, polarity_bit]
  simp (disch := decide) only [encode, byteAt, slice_or, slice_fieldAt_same, slice_fieldAt_above, slice_fieldAt_below,
    BitVec.or_zero, BitVec.zero_or, toNat_ofNat_of_fitsCount h]

theorem decodeSetbrt_encode {p : Int} (h : fitsPercent p = true) :
    decodeSetbrt (encode (.setbrt p)) = .instr (.setbrt p) := by
  rw [decodeSetbrt_of_reserved_zero (Laws.Encoding.setbrt p).2]
  simp (disch := decide) only [encode, slice_or, slice_fieldAt_same, slice_fieldAt_above, BitVec.zero_or,
    toInt_ofInt_of_fitsPercent h]

theorem decodeRender_encode (t0 t1 t2 t3 m : Byte) :
    decodeRender (encode (.render t0 t1 t2 t3 m)) = .instr (.render t0 t1 t2 t3 m) := by
  rw [decodeRender_of_reserved_zero (Laws.Encoding.render t0 t1 t2 t3 m).2]
  simp (disch := decide) only [encode, byteAt, slice_or, slice_fieldAt_same, slice_fieldAt_above, slice_fieldAt_below,
    BitVec.or_zero, BitVec.zero_or]

theorem decodeShout_encode (b : Byte) : decodeShout (encode (.shout b)) = .instr (.shout b) := by
  rw [decodeShout_of_reserved_zero (Laws.Encoding.shout b).2]
  simp (disch := decide) only [encode, byteAt, slice_or, slice_fieldAt_same, slice_fieldAt_above, BitVec.zero_or]

theorem decodeShwr_encode (b : Byte) : decodeShwr (encode (.shwr b)) = .instr (.shwr b) := by
  rw [decodeShwr_of_reserved_zero (Laws.Encoding.shwr b).2]
  simp (disch := decide) only [encode, byteAt, slice_or, slice_fieldAt_same, slice_fieldAt_above, BitVec.zero_or]

/-- The opcode field of a command's word (R71). -/
theorem opcodeField_encode (i : Instr) : opcodeField (encode i) = opcodeOf i := by
  cases i with
  | init pol n d0 d1 d2 d3 data clk latch => exact Laws.Encoding.init pol n d0 d1 d2 d3 data clk latch
  | setbrt p => exact (Laws.Encoding.setbrt p).1
  | render t0 t1 t2 t3 m => exact (Laws.Encoding.render t0 t1 t2 t3 m).1
  | shout b => exact (Laws.Encoding.shout b).1
  | shwr b => exact (Laws.Encoding.shwr b).1

/-- Settles O1: the opcode field selects the command's own format, which reads every field back. -/
theorem encodedCommandDecodesBack : Obligations.EncodedCommandDecodesBack := by
  unfold Obligations.EncodedCommandDecodesBack
  intro i diag hwf hdiag
  have hop : (opcodeField (encode i)).toNat = (opcodeOf i).toNat := by rw [opcodeField_encode]
  cases i with
  | init pol n d0 d1 d2 d3 data clk latch => rw [decode_init hop, decodeInit_encode _ _ _ _ _ _ _ _ hwf]
  | setbrt p => rw [decode_setbrt hop, decodeSetbrt_encode hwf]
  | render t0 t1 t2 t3 m => rw [decode_render hop, decodeRender_encode]
  | shout b =>
    have hd : diag = true := hdiag.resolve_right (show ¬ 4 ≤ 3 by decide)
    rw [decode_shout hop, if_pos hd, decodeShout_encode]
  | shwr b =>
    have hd : diag = true := hdiag.resolve_right (show ¬ 5 ≤ 3 by decide)
    rw [decode_shwr hop, if_pos hd, decodeShwr_encode]

/-! ### From the word to its command and back -/

theorem fieldAt_zero_slice_all (w : Word) : fieldAt 0 (w.extractLsb' 0 64) = w := by
  simp [fieldAt]

/-- A word whose bits from `n` up to the opcode field are 0 is its opcode field and its low `n` bits. -/
theorem opcode_or_low_of_reserved_zero {w : Word} {n m : Nat} (hnm : n + m = 60) (h : w.extractLsb' n m = 0#m) :
    fieldAt 60 (opcodeField w) ||| fieldAt 0 (w.extractLsb' 0 n) = w := by
  have hlow : fieldAt 0 (w.extractLsb' 0 n) = fieldAt 0 (w.extractLsb' 0 60) := by
    rw [← hnm, ← fieldAt_slice_or w 0 n m, Nat.zero_add, h]
    simp [fieldAt]
  rw [hlow, opcodeField, fieldAt_slice_or w 0 60 4, fieldAt_zero_slice_all]

theorem encode_init_slices {w : Word} (h : opcodeField w = 1#4) :
    encode (.init (polarityOfBit (w.getLsbD 59)) (w.extractLsb' 56 3).toNat (byteAt w 48) (byteAt w 40) (byteAt w 32)
      (byteAt w 24) (byteAt w 16) (byteAt w 8) (byteAt w 0)) = w := by
  simp only [encode, bit_polarity, getLsbD_eq_slice, BitVec.ofNat_toNat, BitVec.setWidth_eq, ← h, opcodeField, byteAt]
  rw [fieldAt_slice_or w 59 1 4, fieldAt_slice_or w 56 3 5, fieldAt_slice_or w 48 8 8, fieldAt_slice_or w 40 8 16,
    fieldAt_slice_or w 32 8 24, fieldAt_slice_or w 24 8 32, fieldAt_slice_or w 16 8 40, fieldAt_slice_or w 8 8 48,
    fieldAt_slice_or w 0 8 56, fieldAt_zero_slice_all]

theorem encode_setbrt_slices {w : Word} (h : opcodeField w = 2#4) (hr : w.extractLsb' 16 44 = 0#44) :
    encode (.setbrt (w.extractLsb' 0 16).toInt) = w := by
  rw [encode, BitVec.ofInt_toInt, ← h, opcode_or_low_of_reserved_zero rfl hr]

theorem encode_render_slices {w : Word} (h : opcodeField w = 3#4) (hr : w.extractLsb' 40 20 = 0#20) :
    encode (.render (byteAt w 32) (byteAt w 24) (byteAt w 16) (byteAt w 8) (byteAt w 0)) = w := by
  simp only [encode, byteAt, BitVec.or_assoc]
  rw [fieldAt_slice_or w 0 8 8, fieldAt_slice_or w 0 16 8, fieldAt_slice_or w 0 24 8, fieldAt_slice_or w 0 32 8,
    ← h, opcode_or_low_of_reserved_zero rfl hr]

theorem encode_shout_slices {w : Word} (h : opcodeField w = 4#4) (hr : w.extractLsb' 8 52 = 0#52) :
    encode (.shout (byteAt w 0)) = w := by
  rw [encode, byteAt, ← h, opcode_or_low_of_reserved_zero rfl hr]

theorem encode_shwr_slices {w : Word} (h : opcodeField w = 5#4) (hr : w.extractLsb' 8 52 = 0#52) :
    encode (.shwr (byteAt w 0)) = w := by
  rw [encode, byteAt, ← h, opcode_or_low_of_reserved_zero rfl hr]

theorem fitsPercent_toInt (x : BitVec 16) : fitsPercent x.toInt = true := by
  have hlo : -32768 ≤ x.toInt := BitVec.le_toInt x
  have hhi : x.toInt < 32768 := BitVec.toInt_lt
  simp only [fitsPercent, Bool.and_eq_true, decide_eq_true_eq]
  omega

/-! ### What the opcode field selects -/

/-- The opcode selects a command: 1 to 3 always, 4 and 5 with DIAG_OPS (R71). -/
def Selects (diag : Bool) (w : Word) : Prop :=
  (opcodeField w).toNat = 1 ∨ (opcodeField w).toNat = 2 ∨ (opcodeField w).toNat = 3 ∨
    (diag = true ∧ ((opcodeField w).toNat = 4 ∨ (opcodeField w).toNat = 5))

/-- A bit that the format of the opcode reserves is set (R73 to R75, R78). -/
def Malformed (w : Word) : Prop :=
  ((opcodeField w).toNat = 2 ∧ w.extractLsb' 16 44 ≠ 0#44) ∨ ((opcodeField w).toNat = 3 ∧ w.extractLsb' 40 20 ≠ 0#20) ∨
    (((opcodeField w).toNat = 4 ∨ (opcodeField w).toNat = 5) ∧ w.extractLsb' 8 52 ≠ 0#52)

theorem decode_of_not_selects {diag : Bool} {w : Word} (h : ¬ Selects diag w) : decode diag w = .reservedOpcode := by
  simp only [Selects, not_or, not_and] at h
  obtain ⟨h1, h2, h3, hdiag⟩ := h
  by_cases h4 : (opcodeField w).toNat = 4
  · rw [decode_shout h4, if_neg fun hd => (hdiag hd).1 h4]
  by_cases h5 : (opcodeField w).toNat = 5
  · rw [decode_shwr h5, if_neg fun hd => (hdiag hd).2 h5]
  exact decode_reserved (by omega)

/-- The opcodes of the shift commands are selected with DIAG_OPS alone (R71). -/
theorem Selects.diag_eq_true {diag : Bool} {w : Word} (h : Selects diag w) (hop : 4 ≤ (opcodeField w).toNat) :
    diag = true := by
  obtain h1 | h2 | h3 | ⟨hd, -⟩ := h
  · omega
  · omega
  · omega
  · exact hd

theorem decode_of_malformed {diag : Bool} {w : Word} (hs : Selects diag w) (hm : Malformed w) :
    decode diag w = .reservedField := by
  obtain ⟨h2, hr⟩ | ⟨h3, hr⟩ | ⟨h4 | h5, hr⟩ := hm
  · rw [decode_setbrt h2, decodeSetbrt_of_reserved_ne hr]
  · rw [decode_render h3, decodeRender_of_reserved_ne hr]
  · rw [decode_shout h4, if_pos (hs.diag_eq_true h4.ge), decodeShout_of_reserved_ne hr]
  · rw [decode_shwr h5, if_pos (hs.diag_eq_true (by omega)), decodeShwr_of_reserved_ne hr]

/-- The word is the word of the command, and its opcode field selects the command (R79). -/
def IsWordOf (w : Word) (i : Instr) : Prop := i.wf = true ∧ encode i = w ∧ opcodeOf i = opcodeField w

/-- A word whose opcode selects a command and that sets no reserved bit decodes to the command it is the word of. -/
theorem decode_of_selects {diag : Bool} {w : Word} (hs : Selects diag w) (hm : ¬ Malformed w) :
    ∃ i, decode diag w = .instr i ∧ IsWordOf w i := by
  simp only [Malformed, not_or, not_and, not_not] at hm
  obtain ⟨hm2, hm3, hm45⟩ := hm
  obtain h1 | h2 | h3 | ⟨hd, h4 | h5⟩ := hs
  · have hop : opcodeField w = 1#4 := BitVec.eq_of_toNat_eq h1
    exact ⟨_, decode_init h1, decide_eq_true (BitVec.isLt _), encode_init_slices hop, hop.symm⟩
  · have hop : opcodeField w = 2#4 := BitVec.eq_of_toNat_eq h2
    exact ⟨_, (decode_setbrt h2).trans (decodeSetbrt_of_reserved_zero (hm2 h2)), fitsPercent_toInt _,
      encode_setbrt_slices hop (hm2 h2), hop.symm⟩
  · have hop : opcodeField w = 3#4 := BitVec.eq_of_toNat_eq h3
    exact ⟨_, (decode_render h3).trans (decodeRender_of_reserved_zero (hm3 h3)), rfl,
      encode_render_slices hop (hm3 h3), hop.symm⟩
  · have hop : opcodeField w = 4#4 := BitVec.eq_of_toNat_eq h4
    have hr := hm45 (.inl h4)
    exact ⟨_, ((decode_shout h4).trans (if_pos hd)).trans (decodeShout_of_reserved_zero hr), rfl,
      encode_shout_slices hop hr, hop.symm⟩
  · have hop : opcodeField w = 5#4 := BitVec.eq_of_toNat_eq h5
    have hr := hm45 (.inr h5)
    exact ⟨_, ((decode_shwr h5).trans (if_pos hd)).trans (decodeShwr_of_reserved_zero hr), rfl,
      encode_shwr_slices hop hr, hop.symm⟩

/-- A word that decodes to a command selects one and sets no reserved bit. -/
theorem selects_and_not_malformed_of_decode {diag : Bool} {w : Word} {i : Instr} (h : decode diag w = .instr i) :
    Selects diag w ∧ ¬ Malformed w := by
  have hs : Selects diag w := by
    by_contra hs
    rw [decode_of_not_selects hs] at h
    cases h
  refine ⟨hs, fun hm => ?_⟩
  rw [decode_of_malformed hs hm] at h
  cases h

/-- Settles O2: a word that decodes is one of the well-formed words, each rebuilt from its slices. -/
theorem decodedWordIsItsEncoding : Obligations.DecodedWordIsItsEncoding := by
  unfold Obligations.DecodedWordIsItsEncoding
  intro diag w i h
  obtain ⟨hs, hm⟩ := selects_and_not_malformed_of_decode h
  obtain ⟨j, hj, hword⟩ := decode_of_selects hs hm
  obtain rfl : j = i := Decoded.instr.inj (hj.symm.trans h)
  exact hword

end Sys2Proof

namespace Sys2Proof.Machine

/-! ### Reserved words at the port -/

/-- With BUSY = 0 and no RST now, a step decodes the offered word and runs it (R28, R70). -/
theorem step_of_offered {s : State} {w : Word} {rest : List Word} (hb : s.busy = false) (hr : s.rstIn ≠ some 0)
    (ho : s.offered = w :: rest) : step s = runWord exec w (consumeWord s) := by
  simp [step, resetNow, hb, hr, offeredWord, ho]

theorem runWord_of_reservedOpcode (run : Instr → State → Host.Outcome State Fault Refusal) {w : Word} {s : State}
    (h : decode s.params.diagOps w = .reservedOpcode) : runWord run w s = .refused (.reservedOpcode w) := by
  simp only [runWord, h, refuse]

theorem runWord_of_reservedField (run : Instr → State → Host.Outcome State Fault Refusal) {w : Word} {s : State}
    (h : decode s.params.diagOps w = .reservedField) : runWord run w s = .refused (.reservedField w) := by
  simp only [runWord, h, refuse]

/-- Settles O4: the three answers of the decoder, as the port gives them. -/
theorem reservedWordsAreRefused : Obligations.ReservedWordsAreRefused := by
  unfold Obligations.ReservedWordsAreRefused
  intro s w rest hb hr ho
  have hstep := step_of_offered hb hr ho
  refine ⟨fun hs => ?_, fun hs hm => ?_, fun hs hm => ?_⟩
  · exact hstep.trans (runWord_of_reservedOpcode exec (decode_of_not_selects hs))
  · exact hstep.trans (runWord_of_reservedField exec (decode_of_malformed hs hm))
  · obtain ⟨i, hi, -⟩ := decode_of_selects hs hm
    exact ⟨i, hi⟩

/-! ### The test vectors -/

/-- Settles O3: sixteen fixed words, evaluated. -/
theorem specWordsDecodeAsWritten : Obligations.SpecWordsDecodeAsWritten := by
  unfold Obligations.SpecWordsDecodeAsWritten
  decide

/-- Settles O6: six fixed lines, evaluated. -/
theorem specLinesAssemble : Obligations.SpecLinesAssemble := by
  unfold Obligations.SpecLinesAssemble
  decide

/-! ### The serial frames -/

/-- Settles O29: the frames are their definitions written out, and each of the eight cells has its edge. -/
theorem serialFramesAreBitExact : Obligations.SerialFramesAreBitExact := by
  unfold Obligations.SerialFramesAreBitExact
  intro v
  exact ⟨rfl, rfl, shiftOut_length v, risingEdges_shiftOut false v, shiftWrite_length v⟩

end Sys2Proof.Machine
end

section
/-! PROOFS. INIT: its four tests in order, the state an acceptable INIT leaves, and that no digit conducts on the way
(40_configuration.md R100 to R106; 70_reset_and_hazards.md R207). -/

namespace Sys2Proof.Machine

/-! ### The tests of INIT (R105) -/

theorem initRefusal_of_configured {n : Nat} {pins : List Byte} {w : Word} {s : State} (hc : s.configured = true) :
    initRefusal n pins w s = some (.alreadyConfigured w) := if_pos hc

theorem initRefusal_of_bad_count {n : Nat} {pins : List Byte} {w : Word} {s : State} (hc : s.configured = false)
    (hn : ¬ (1 ≤ n ∧ n ≤ 4)) : initRefusal n pins w s = some (.badDigitCount w) := by
  rw [initRefusal, if_neg (by simp [hc]), if_pos hn]

theorem initRefusal_of_invalid_pin {n : Nat} {pins : List Byte} {w : Word} {s : State} (hc : s.configured = false)
    (hn : 1 ≤ n ∧ n ≤ 4) (hv : ¬ pins.all s.params.validPin = true) :
    initRefusal n pins w s = some (.invalidPin w) := by
  rw [initRefusal, if_neg (by simp [hc]), if_neg (not_not.mpr hn), if_pos hv]

theorem initRefusal_of_equal_pins {n : Nat} {pins : List Byte} {w : Word} {s : State} (hc : s.configured = false)
    (hn : 1 ≤ n ∧ n ≤ 4) (hv : pins.all s.params.validPin = true) (hd : ¬ pinsDistinct pins = true) :
    initRefusal n pins w s = some (.pinsNotDistinct w) := by
  rw [initRefusal, if_neg (by simp [hc]), if_neg (not_not.mpr hn), if_neg (not_not.mpr hv), if_pos hd]

/-- The test that fails names the refusal of the whole command. -/
theorem exec_init_of_initRefusal {pol : Polarity} {n : Nat} {d0 d1 d2 d3 data clk latch : Byte} {s : State}
    {r : Refusal} (hb : s.busy = false)
    (h : initRefusal n (usedPins n d0 d1 d2 d3 data clk latch) (encode (.init pol n d0 d1 d2 d3 data clk latch)) s =
      some r) : exec (.init pol n d0 d1 d2 d3 data clk latch) s = .refused r :=
  exec_of_refused hb (by simp only [accept, acceptInit, h, refuse])

/-- Settles O21: each clause is the first test that fails, and the last one the case in which none does. -/
theorem initTestsInOrder : Obligations.InitTestsInOrder := by
  unfold Obligations.InitTestsInOrder
  intro pol n d0 d1 d2 d3 data clk latch s hb i used valid
  have hvalid : used.all s.params.validPin = true ↔ valid := List.all_eq_true
  have hdistinct : pinsDistinct used = true ↔ used.Nodup := pinsDistinct_iff used
  refine ⟨fun hc => ?_, fun hc hn => ?_, fun hc h1 h4 hv => ?_, fun hc h1 h4 hv hd => ?_, fun hc h1 h4 hv hd => ?_⟩
  · exact exec_init_of_initRefusal hb (initRefusal_of_configured hc)
  · exact exec_init_of_initRefusal hb (initRefusal_of_bad_count hc hn)
  · exact exec_init_of_initRefusal hb (initRefusal_of_invalid_pin hc ⟨h1, h4⟩ (mt hvalid.mp hv))
  · exact exec_init_of_initRefusal hb
      (initRefusal_of_equal_pins hc ⟨h1, h4⟩ (hvalid.mpr hv) (mt hdistinct.mp hd))
  · have hok : acceptable i s = true := by
      simp only [i, acceptable, hc, Bool.not_false, Bool.true_and, Bool.and_eq_true, decide_eq_true_eq]
      exact ⟨⟨⟨h1, h4⟩, hvalid.mpr hv⟩, hdistinct.mpr hd⟩
    obtain ⟨a, ha⟩ := accept_of_acceptable hok
    exact ⟨runToIdle a, exec_of_accepted hb ha⟩

/-! ### What INIT's expansion does -/

theorem initExpansion_length {n : Nat} (hn : n ≤ 4) (off : Bool) (allOff : Byte) :
    (initExpansion n off allOff).length = 2 * n + 40 := by
  have hdigits : (digitsBelow n).length = n := by simpa [digitsBelow] using hn
  have hsetups : ((digitsBelow n).flatMap (digitSetup off)).length = 2 * n := by
    simp [List.length_flatMap, digitSetup, hdigits, Nat.mul_comm]
  simp [initExpansion, hsetups, serialSetup, shiftWrite_length]

/-- Setting up digit pins shows the external register no edge (R102). -/
theorem performAll_digitSetups_draws (off : Bool) (is : List (Fin 4)) (s : State) :
    (performAll (is.flatMap (digitSetup off)) s).draws = s.draws := by
  induction is generalizing s with
  | nil => rfl
  | cons i is ih =>
    have hone : (performAll (digitSetup off i) s).draws = s.draws := by
      rw [digitSetup, performAll_cons, perform_digit]
      rfl
    rw [List.flatMap_cons, performAll_append, ih, hone]

/-- The directions after INIT: the used digits' lines and the serial lines are driven (R102, R103). -/
theorem performAll_initExpansion_oe (n : Nat) (off : Bool) (allOff : Byte) (s : State) :
    (performAll (initExpansion n off allOff) s).oe =
      { dig0 := decide (0 < n) || s.oe.dig0
        dig1 := decide (1 < n) || s.oe.dig1
        dig2 := decide (2 < n) || s.oe.dig2
        dig3 := decide (3 < n) || s.oe.dig3
        sdata := true
        sclk := true
        slatch := true } := by
  have hdigit := performAll_digitSetups_oe off (digitsBelow n) s
  simp only [mem_digitsBelow] at hdigit
  rw [performAll_initExpansion]
  apply RoleBits.ext_get
  intro r
  cases r with
  | dig0 => exact hdigit 0
  | dig1 => exact hdigit 1
  | dig2 => exact hdigit 2
  | dig3 => exact hdigit 3
  | sdata | sclk | slatch => rfl

/-- The levels after INIT: the used digits' off, data and clock low, latch high (R102 to R104). -/
theorem performAll_initExpansion_lvl (n : Nat) (off : Bool) (allOff : Byte) (s : State) :
    (performAll (initExpansion n off allOff) s).lvl =
      { dig0 := if 0 < n then off else s.lvl.dig0
        dig1 := if 1 < n then off else s.lvl.dig1
        dig2 := if 2 < n then off else s.lvl.dig2
        dig3 := if 3 < n then off else s.lvl.dig3
        sdata := false
        sclk := false
        slatch := true } := by
  have hdigit := performAll_digitSetups_lvl off (digitsBelow n) s
  simp only [mem_digitsBelow] at hdigit
  rw [performAll_initExpansion]
  apply RoleBits.ext_get
  intro r
  cases r with
  | dig0 => exact hdigit 0
  | dig1 => exact hdigit 1
  | dig2 => exact hdigit 2
  | dig3 => exact hdigit 3
  | sdata | sclk | slatch => rfl

/-- INIT's expansion touches the pins, the external register, the timer and the trace (R106). -/
theorem performAll_initExpansion_frame (n : Nat) (off : Bool) (allOff : Byte) (s : State) :
    performAll (initExpansion n off allOff) s =
      { s with
        oe := (performAll (initExpansion n off allOff) s).oe
        lvl := (performAll (initExpansion n off allOff) s).lvl
        srShift := allOff
        srOut := allOff
        hold := 0#16
        trace := s.trace ++ initExpansion n off allOff } := by
  have hinit := performAll_initExpansion n off allOff s
  have hdraws : (performAll (initExpansion n off allOff) s).draws = s.draws := by
    rw [hinit]
    exact performAll_digitSetups_draws off (digitsBelow n) s
  have hshift : (performAll (initExpansion n off allOff) s).srShift = allOff := by rw [hinit]
  have hout : (performAll (initExpansion n off allOff) s).srOut = allOff := by rw [hinit]
  have hhold : (performAll (initExpansion n off allOff) s).hold = 0#16 := by rw [hinit]
  have hframe := performAll_frame (initExpansion n off allOff) s
  rwa [hdraws, hshift, hout, hhold] at hframe

/-- Settles O22: the registers are written at acceptance, and the expansion, the whole of it at once, moves the pins and
blanks the external register. -/
theorem initConfiguresAndBlanks : Obligations.InitConfiguresAndBlanks := by
  unfold Obligations.InitConfiguresAndBlanks
  intro pol n d0 d1 d2 d3 data clk latch s hs hok on seg events
  have hn : n ≤ 4 := by
    simp only [acceptable, Bool.and_eq_true, decide_eq_true_eq] at hok
    omega
  have hon : on = digitOnOf s.params.levels pol := by cases pol <;> rfl
  have hseg : seg = segOnOf s.params.levels pol := by cases pol <;> rfl
  have hevents : events = initExpansion n (!on) s.params.allOff := rfl
  refine ⟨hevents ▸ initExpansion_length hn (!on) s.params.allOff, ?_⟩
  rw [exec_init hs hok, completeAtOnce_eq, performAll_initExpansion_frame, performAll_initExpansion_oe,
    performAll_initExpansion_lvl, configuredAfter_init, hevents, hon, hseg, hs.1]
  rfl

/-! ### No digit conducts on the way -/

theorem Dark.conducting_eq_nil {s : State} (h : Dark s) : conducting s = [] :=
  List.filter_eq_nil_iff.mpr fun i _ => by simp [h i]

/-- Settles O23: INIT's events from undriven pins keep every digit dark, the accepted state having the pins as they
were. -/
theorem initNeverFlashesADigit : Obligations.InitNeverFlashesADigit := by
  unfold Obligations.InitNeverFlashesADigit
  intro pol n d0 d1 d2 d3 data clk latch s a hs ha k
  rw [accept_init (acceptable_of_accept ha)] at ha
  cases ha
  refine Dark.conducting_eq_nil (throughout_dark_initExpansion n _ rfl (dark_of_undriven ?_) k)
  exact hs

end Sys2Proof.Machine
end

section
/-! PROOFS. The brightness family: the clamp of the percent, the map from it to ON_TIME, SETBRT in an idle engine,
and the on-hold (41_brightness.md R120 to R125). -/

namespace Sys2Proof.Machine

/-! ### The clamp (R121) -/

theorem clampPercent_of_neg {p : Int} (h : p < 0) : clampPercent p = 0 := if_pos h

theorem clampPercent_of_gt {p : Int} (h : 100 < p) : clampPercent p = 100 := by
  rw [clampPercent, if_neg (by omega), if_pos h]

theorem clampPercent_of_mem {p : Int} (h0 : 0 ≤ p) (h100 : p ≤ 100) : (clampPercent p : Int) = p := by
  rw [clampPercent, if_neg (by omega), if_neg (by omega), Int.toNat_of_nonneg h0]

theorem clampPercent_eq_max_min (p : Int) : (clampPercent p : Int) = max 0 (min p 100) := by
  rcases lt_or_ge p 0 with hneg | h0
  · rw [clampPercent_of_neg hneg]
    omega
  rcases lt_or_ge 100 p with hgt | h100
  · rw [clampPercent_of_gt hgt]
    omega
  · rw [clampPercent_of_mem h0 h100]
    omega

/-- BRIGHT holds every clamped percent. -/
theorem toNat_ofNat_clampPercent (p : Int) : (BitVec.ofNat 7 (clampPercent p)).toNat = clampPercent p :=
  (BitVec.toNat_ofNat ..).trans (Nat.mod_eq_of_lt ((clampPercent_le p).trans_lt (by decide)))

/-! ### The brightness map (R122, R123) -/

theorem onTimeOf_mono (round : Rounding) (period : Nat) {c d : Nat} (h : c ≤ d) :
    onTimeOf round period c ≤ onTimeOf round period d := by
  have hmul : c * period ≤ d * period := Nat.mul_le_mul_right period h
  cases round with
  | floor => exact Nat.div_le_div_right hmul
  | nearest => exact Nat.div_le_div_right (Nat.add_le_add_right hmul 50)

/-- The addend 50 of the nearest rounding is lost when the division is exact. -/
theorem onTimeOf_of_dvd (round : Rounding) {period c : Nat} (h : 100 ∣ c * period) :
    onTimeOf round period c = c * period / 100 := by
  cases round with
  | floor => rfl
  | nearest => exact Nat.add_div_of_dvd_right h

theorem onTimeOf_zero (round : Rounding) (period : Nat) : onTimeOf round period 0 = 0 := by
  rw [onTimeOf_of_dvd round (by simp), Nat.zero_mul, Nat.zero_div]

theorem onTimeOf_hundred (round : Rounding) (period : Nat) : onTimeOf round period 100 = period := by
  rw [onTimeOf_of_dvd round (Nat.dvd_mul_right 100 period), Nat.mul_div_cancel_left period (by decide)]

/-- ON_TIME holds what the map gives for a clamped percent (R123 (b)). -/
theorem toNat_ofNat_onTimeOf (round : Rounding) (period : BitVec 16) {c : Nat} (hc : c ≤ 100) :
    (BitVec.ofNat 16 (onTimeOf round period.toNat c)).toNat = onTimeOf round period.toNat c :=
  (BitVec.toNat_ofNat ..).trans (Nat.mod_eq_of_lt ((onTimeOf_le round period.toNat hc).trans_lt period.isLt))

/-- The product needs 23 bits (R123 (a)). -/
theorem mul_framePeriod_lt (period : BitVec 16) {c : Nat} (hc : c ≤ 100) : c * period.toNat < 2 ^ 23 :=
  calc c * period.toNat ≤ 100 * 65535 := Nat.mul_le_mul hc (Nat.le_of_lt_succ period.isLt)
    _ < 2 ^ 23 := by decide

/-- Settles O19: the parts are the map's own laws; the two roundings agree on an exact division. -/
theorem brightnessMapLaws : Obligations.BrightnessMapLaws := by
  unfold Obligations.BrightnessMapLaws
  intro fp round c d hcd hd
  exact ⟨onTimeOf_mono round _ hcd, onTimeOf_zero round _, onTimeOf_hundred round _, onTimeOf_le round _ hd,
    mul_framePeriod_lt fp hd, toNat_ofNat_onTimeOf round fp hd,
    fun h => (onTimeOf_of_dvd .floor h).trans (onTimeOf_of_dvd .nearest h).symm⟩

/-! ### SETBRT (R120) -/

/-- In an idle engine the acceptance of SETBRT is the whole command. -/
theorem exec_setbrt_of_idle (p : Int) {s : State} (hb : s.busy = false) : exec (.setbrt p) s = acceptSetbrt p s :=
  exec_of_idle_next hb rfl hb

/-- SETBRT sees its percent through the clamp only, in an idle engine or a busy one. -/
theorem exec_setbrt_congr {p q : Int} (h : clampPercent p = clampPercent q) (s : State) :
    exec (.setbrt p) s = exec (.setbrt q) s := by
  have haccept : accept (.setbrt p) = accept (.setbrt q) := by
    funext u
    simp only [accept, acceptSetbrt, h]
  rw [exec_eq_runCommand, haccept, ← exec_eq_runCommand]

/-- Settles O17: the acceptance writes the clamped percent and its on-time, both of which fit their registers. -/
theorem setbrtSetsBrightness : Obligations.SetbrtSetsBrightness := by
  unfold Obligations.SetbrtSetsBrightness
  intro p s hb
  have hbright := toNat_ofNat_clampPercent p
  have honTime := toNat_ofNat_onTimeOf s.params.round s.params.framePeriod (clampPercent_le p)
  refine ⟨_, exec_setbrt_of_idle p hb, ?_, fun hround => ?_, fun hround => ?_, rfl⟩ <;>
    simp only [setBrtValid_bright, setBrtValid_onTime, hbright, honTime]
  · exact clampPercent_eq_max_min p
  · rw [hround, onTimeOf]
  · rw [hround, onTimeOf]
/-- Settles O18: a percent outside the range has the clamp of the bound it passes. -/
theorem percentIsClamped : Obligations.PercentIsClamped := by
  unfold Obligations.PercentIsClamped
  exact ⟨fun p => ⟨clampPercent_of_neg, clampPercent_of_mem, clampPercent_of_gt⟩,
    fun p s => ⟨fun h => exec_setbrt_congr (clampPercent_of_gt h) s,
      fun h => exec_setbrt_congr (clampPercent_of_neg h) s⟩⟩

/-! ### The on-hold (R125) -/

theorem onHold_of_clamp {s : State} (h : s.params.onHoldMode = .clamp) : onHold s = max s.onTime.toNat 1 := by
  rw [onHold, h]

theorem onHold_of_bias {s : State} (h : s.params.onHoldMode = .bias) : onHold s = s.onTime.toNat + 1 := by
  rw [onHold, h]

theorem one_le_onHold (s : State) : 1 ≤ onHold s := by
  cases h : s.params.onHoldMode with
  | clamp => exact onHold_of_clamp h ▸ le_max_right _ _
  | bias => exact onHold_of_bias h ▸ Nat.le_add_left 1 _

/-- Settles O38: each mode gives its own value, and both are at least 1. -/
theorem onHoldHasAMinimum : Obligations.OnHoldHasAMinimum := by
  unfold Obligations.OnHoldHasAMinimum
  exact fun s => ⟨onHold_of_clamp, onHold_of_bias, one_le_onHold s⟩

end Sys2Proof.Machine
end

section
/-! PROOFS. The shift family: the two tests of SHOUT and SHWR, the whole of each command with the serial lines driven and
its frame in every idle state, and the levels of the latch and data lines on the way (42_shift.md R130 to R137). -/

namespace Sys2Proof.Machine

/-! ### The tests of SHOUT and SHWR (R132, R133, R172) -/

theorem diagRefusal_of_no_diagOps {w : Word} {s : State} (hd : s.params.diagOps = false) :
    diagRefusal w s = some (.reservedOpcode w) := if_pos hd

theorem diagRefusal_of_not_configured {w : Word} {s : State} (hd : s.params.diagOps = true)
    (hc : s.configured = false) : diagRefusal w s = some (.notConfigured w) := by
  rw [diagRefusal, if_neg (by simp [hd]), if_pos hc]

theorem exec_shout_of_diagRefusal {b : Byte} {s : State} {r : Refusal} (hb : s.busy = false)
    (h : diagRefusal (encode (.shout b)) s = some r) : exec (.shout b) s = .refused r :=
  exec_of_refused hb (by simp only [accept, acceptShout, h, refuse])

theorem exec_shwr_of_diagRefusal {b : Byte} {s : State} {r : Refusal} (hb : s.busy = false)
    (h : diagRefusal (encode (.shwr b)) s = some r) : exec (.shwr b) s = .refused r :=
  exec_of_refused hb (by simp only [accept, acceptShwr, h, refuse])

/-- Settles O26: each clause is the first test that fails. -/
theorem diagnosticsTestInOrder : Obligations.DiagnosticsTestInOrder := by
  unfold Obligations.DiagnosticsTestInOrder
  intro b s hb
  refine ⟨fun hd => ⟨?_, ?_⟩, fun hd hc => ⟨?_, ?_⟩⟩
  · exact exec_shout_of_diagRefusal hb (diagRefusal_of_no_diagOps hd)
  · exact exec_shwr_of_diagRefusal hb (diagRefusal_of_no_diagOps hd)
  · exact exec_shout_of_diagRefusal hb (diagRefusal_of_not_configured hd hc)
  · exact exec_shwr_of_diagRefusal hb (diagRefusal_of_not_configured hd hc)

/-! ### The whole command, with the serial lines driven (R134) -/

/-- Settles O27: the command is SHIFTOUT, the whole of it at once. -/
theorem shoutShiftsWithoutLatching : Obligations.ShoutShiftsWithoutLatching := by
  unfold Obligations.ShoutShiftsWithoutLatching
  intro b s hs hd hc hdriven
  have hok : acceptable (.shout b) s = true := Bool.and_eq_true_iff.mpr ⟨hd, hc⟩
  rw [exec_shout hs hok, completeAtOnce_eq, performAll_shiftOut b s hdriven, configuredAfter_shout, hs.1]

/-- Settles O28: the command is SHIFTWRITE, the whole of it at once. -/
theorem shwrLatchesItsByte : Obligations.ShwrLatchesItsByte := by
  unfold Obligations.ShwrLatchesItsByte
  intro b s hs hd hc hdriven
  have hok : acceptable (.shwr b) s = true := Bool.and_eq_true_iff.mpr ⟨hd, hc⟩
  rw [exec_shwr hs hok, completeAtOnce_eq, performAll_shiftWrite b s hdriven, configuredAfter_shwr, hs.1]

/-! ### Levels, whether or not the lines are driven (R24) -/

theorem performAll_bitCell_lvl (b : Bool) (s : State) :
    (performAll (bitCell b) s).lvl = { s.lvl with sclk := true, sdata := false } := rfl

/-- SHIFTOUT leaves clock and data low and no other level changed (R130). -/
theorem performAll_shiftOut_lvl (v : Byte) (s : State) :
    (performAll (shiftOut v) s).lvl = { s.lvl with sclk := false, sdata := false } := by
  simp only [shiftOut, performAll_append, performAll_cons, performAll_nil, perform_pinLevel_lvl,
    performAll_bitCell_lvl, RoleBits.set]

/-- SHIFTWRITE leaves clock and data low, the latch high and no other level changed (R131). -/
theorem performAll_shiftWrite_lvl (v : Byte) (s : State) :
    (performAll (shiftWrite v) s).lvl = { s.lvl with sclk := false, sdata := false, slatch := true } := by
  simp only [shiftWrite, performAll_append, performAll_cons, performAll_nil, perform_pinLevel_lvl,
    performAll_shiftOut_lvl, RoleBits.set]

/-! ### The frame of the two commands -/

/-- What SHIFTOUT leaves alone (R130). -/
theorem performAll_shiftOut_frame (v : Byte) (s : State) :
    ∃ sr n h, performAll (shiftOut v) s =
      { s with
        lvl := { s.lvl with sclk := false, sdata := false }
        srShift := sr
        draws := n
        trace := s.trace ++ shiftOut v
        hold := h } := by
  have hout : (performAll (shiftOut v) s).srOut = s.srOut :=
    (throughout_srOut_of_not_mem (latchHigh_not_mem_shiftOut v) s).at_end
  have hframe := performAll_frame (shiftOut v) s
  rw [performAll_oe_of_no_pinDir (shiftOut_isPinDir v), performAll_shiftOut_lvl, hout] at hframe
  exact ⟨_, _, _, hframe⟩

/-- What SHIFTWRITE leaves alone (R131). -/
theorem performAll_shiftWrite_frame (v : Byte) (s : State) :
    ∃ sr out n h, performAll (shiftWrite v) s =
      { s with
        lvl := { s.lvl with sclk := false, sdata := false, slatch := true }
        srShift := sr
        srOut := out
        draws := n
        trace := s.trace ++ shiftWrite v
        hold := h } := by
  have hframe := performAll_frame (shiftWrite v) s
  rw [performAll_oe_of_no_pinDir (shiftWrite_isPinDir v), performAll_shiftWrite_lvl] at hframe
  exact ⟨_, _, _, _, hframe⟩

/-- Settles O48: an accepted command is its micro-operation at once, and the sequencer back at rest. -/
theorem shiftCommandsFrame : Obligations.ShiftCommandsFrame := by
  unfold Obligations.ShiftCommandsFrame
  intro b s t hs
  constructor
  · intro h
    obtain ⟨sr, n, hold, hframe⟩ := performAll_shiftOut_frame b s
    rw [exec_shout hs (acceptable_of_exec hs h), completeAtOnce_eq, hframe, configuredAfter_shout] at h
    cases h
    exact ⟨by rw [hs.1], fun _ => rfl⟩
  · intro h
    obtain ⟨sr, out, n, hold, hframe⟩ := performAll_shiftWrite_frame b s
    rw [exec_shwr hs (acceptable_of_exec hs h), completeAtOnce_eq, hframe, configuredAfter_shwr] at h
    cases h
    exact ⟨by rw [hs.1], fun _ => rfl⟩

/-! ### The latch line on the way (R135) -/

/-- Only an event that writes a role's level moves it (R17). -/
theorem perform_lvl_get_of_ne {e : Event} {r : Role} (he : ∀ l, e ≠ .pinLevel r l) (s : State) :
    (perform e s).lvl.get r = s.lvl.get r := by
  cases e with
  | pinLevel q l => exact RoleBits.get_set_other s.lvl q r l fun hq => he l (hq ▸ rfl)
  | pinDir q => rfl
  | wait n => rfl
  | memRead c p => rfl

theorem throughout_lvl_of_not_mem {es : List Event} {r : Role} (h : ∀ l, Event.pinLevel r l ∉ es) (s : State) :
    Throughout (fun u => u.lvl.get r = s.lvl.get r) es s :=
  throughout_of_kept
    (fun _ he u hu => (perform_lvl_get_of_ne (fun l heq => h l (heq ▸ he)) u).trans hu) rfl

/-- SHIFTOUT never writes the latch line (R130). -/
theorem latch_not_mem_shiftOut (v : Byte) (l : Bool) : Event.pinLevel .slatch l ∉ shiftOut v := by
  simp [shiftOut, bitCell]

theorem shiftOut_take_slatch (v : Byte) (s : State) (k : Nat) :
    (performAll ((shiftOut v).take k) s).lvl.slatch = s.lvl.slatch :=
  throughout_lvl_of_not_mem (latch_not_mem_shiftOut v) s k

/-- Up to its last event SHIFTWRITE is the latch lowered and a SHIFTOUT (R131). -/
theorem shiftWrite_take_succ (v : Byte) {k : Nat} (hk : k ≤ 33) :
    (shiftWrite v).take (k + 1) = .pinLevel .slatch false :: (shiftOut v).take k :=
  congrArg (Event.pinLevel .slatch false :: ·) (List.take_append_of_le_length hk)

/-- Settles O31: the first event lowers the latch, SHIFTOUT leaves it, and the last event raises it. -/
theorem latchIsLowWhileShifting : Obligations.LatchIsLowWhileShifting := by
  unfold Obligations.LatchIsLowWhileShifting
  intro v s k
  refine ⟨fun h1 h34 => ?_, fun h35 => ?_, shiftOut_take_slatch v s k⟩
  · obtain ⟨j, rfl⟩ := Nat.exists_eq_add_of_le' h1
    rw [shiftWrite_take_succ v (Nat.le_of_succ_le_succ h34), performAll_cons, shiftOut_take_slatch]
    rfl
  · rw [List.take_of_length_le h35, performAll_shiftWrite_lvl]

/-! ### The data line on the way (R137) -/

/-- Cell number `j` of SHIFTOUT is that of bit 7 - j (R81, R82). -/
theorem shiftOut_drop_cell (v : Byte) {j : Nat} (hj : j < 8) :
    (shiftOut v).drop (4 * j) = bitCell (bitOf v (7 - j)) ++ (shiftOut v).drop (4 * (j + 1)) := by
  interval_cases j <;> rfl

/-- The first events of SHIFTOUT are whole cells and the first events of one more. -/
theorem performAll_shiftOut_take_cell (v : Byte) (s : State) {j m : Nat} (hj : j < 8) (hm : m ≤ 4) :
    performAll ((shiftOut v).take (4 * j + m)) s =
      performAll ((bitCell (bitOf v (7 - j))).take m) (performAll ((shiftOut v).take (4 * j)) s) := by
  rw [List.take_add, shiftOut_drop_cell v hj, List.take_append_of_le_length hm, performAll_append]

/-- A cell starts with the data line low: the cell before it has lowered it (R137). -/
theorem sdata_low_before_cell (v : Byte) {s : State} {j : Nat} (hj : j < 8) (h : 1 ≤ j ∨ s.lvl.sdata = false) :
    (performAll ((shiftOut v).take (4 * j)) s).lvl.sdata = false := by
  cases j with
  | zero => exact h.resolve_left (by decide)
  | succ i =>
    rw [Nat.mul_succ, performAll_shiftOut_take_cell v s (Nat.lt_of_succ_lt hj) le_rfl]
    rfl

/-- Settles O33: the four events of a cell, from the levels the cells before it have left. -/
theorem dataLineIsLowBetweenCells : Obligations.DataLineIsLowBetweenCells := by
  unfold Obligations.DataLineIsLowBetweenCells
  intro v s j hj at'
  have hcell (m : Nat) (hm : m ≤ 4) : at' (4 * j + m) =
      (performAll ((bitCell (bitOf v (7 - j))).take m) (performAll ((shiftOut v).take (4 * j)) s)).lvl :=
    congrArg State.lvl (performAll_shiftOut_take_cell v s hj hm)
  have hend : at' 33 = { s.lvl with sclk := false, sdata := false } := performAll_shiftOut_lvl v s
  rw [hcell 1 (by decide), hcell 2 (by decide), hcell 3 (by decide), hcell 4 le_rfl, hend]
  exact ⟨⟨rfl, sdata_low_before_cell v hj⟩, ⟨rfl, rfl⟩, ⟨rfl, rfl⟩, ⟨rfl, rfl⟩, rfl⟩

end Sys2Proof.Machine
end

section
/-! PROOFS. The events of a RENDER: its expansion as one cycle for each used digit, what each cycle writes, reads and
waits, where a cycle stands in the pass, and what the pass depends on (43_render.md R150 to R158, R160, R162). -/

namespace Sys2Proof.Machine

/-! ### The tests of RENDER (R150, R172) -/

theorem renderRefusal_of_not_configured {w : Word} {s : State} (hc : s.configured = false) :
    renderRefusal w s = some (.notConfigured w) := if_pos hc

theorem renderRefusal_of_no_brightness {w : Word} {s : State} (hc : s.configured = true) (hv : s.brtValid = false) :
    renderRefusal w s = some (.brightnessUnwritten w) := by
  rw [renderRefusal, if_neg (by simp [hc]), if_pos hv]

theorem exec_render_of_renderRefusal {t0 t1 t2 t3 m : Byte} {s : State} {r : Refusal} (hb : s.busy = false)
    (h : renderRefusal (encode (.render t0 t1 t2 t3 m)) s = some r) : exec (.render t0 t1 t2 t3 m) s = .refused r :=
  exec_of_refused hb (by simp only [accept, acceptRender, h, refuse])

/-- Settles O36: each clause is the first test that fails. -/
theorem renderTestsInOrder : Obligations.RenderTestsInOrder := by
  unfold Obligations.RenderTestsInOrder
  intro t0 t1 t2 t3 m s hb
  exact ⟨fun hc => exec_render_of_renderRefusal hb (renderRefusal_of_not_configured hc),
    fun hc hv => exec_render_of_renderRefusal hb (renderRefusal_of_no_brightness hc hv)⟩

/-- An accepted RENDER has latched its text and started its pass. -/
theorem eq_of_accept_render {t0 t1 t2 t3 m : Byte} {s a : State} (h : accept (.render t0 t1 t2 t3 m) s = .next a) :
    a = start 3#4 (renderExpansion s ⟨t0, t1, t2, t3⟩) (latchText ⟨t0, t1, t2, t3⟩ m s) := by
  obtain ⟨hc, hv⟩ := Bool.and_eq_true_iff.mp (acceptable_of_accept h)
  rw [accept_render hc hv] at h
  cases h
  rfl

/-! ### The pattern read for a digit (R51, R152) -/

/-- The number of the free value that a drawn read for digit `i` takes: the reads of the digits before it come first. -/
def drawNumber (s : State) (text : FourBytes) (i : Fin 4) : Nat :=
  s.draws + ((digitsBelow i.val).map fun j => drawsOfRead s.params (text.get j)).sum

/-- The pattern that the pass reads for digit `i`. -/
def patternRead (s : State) (text : FourBytes) (i : Fin 4) : Byte :=
  glyphPattern s.params s.mem (drawNumber s text i) (text.get i)

theorem glyphPattern_of_supported {p : Params} {c : Byte} (h : c ∈ p.supported) (mem : Memory) (k : Nat) :
    glyphPattern p mem k c = mem.read c.toNat := if_pos (List.contains_iff_mem.mpr h)

theorem glyphPattern_of_blank {p : Params} {c : Byte} (h : c ∉ p.supported) (hp : p.unsupported = .blank)
    (mem : Memory) (k : Nat) : glyphPattern p mem k c = 0#8 := by
  rw [glyphPattern, if_neg (mt List.contains_iff_mem.mp h), hp]

/-- A read that draws no free value returns the same pattern whatever its number (R54). -/
theorem glyphPattern_of_no_draw {p : Params} {c : Byte} (h : p.unsupported = .blank ∨ c ∈ p.supported)
    (mem : Memory) (k k' : Nat) : glyphPattern p mem k c = glyphPattern p mem k' c := by
  by_cases hc : c ∈ p.supported
  · rw [glyphPattern_of_supported hc, glyphPattern_of_supported hc]
  · rw [glyphPattern_of_blank hc (h.resolve_right hc), glyphPattern_of_blank hc (h.resolve_right hc)]

theorem drawsOfRead_of_blank {p : Params} (hp : p.unsupported = .blank) (c : Byte) : drawsOfRead p c = 0 := by
  simp [drawsOfRead, hp]

theorem renderDraws_of_blank {s : State} (hp : s.params.unsupported = .blank) (text : FourBytes) :
    renderDraws s text = 0 := by
  simp [renderDraws, drawsOfRead_of_blank hp]

/-! ### The expansion as a cycle for each used digit (R150) -/

/-- The cycle of digit `i` in the pass of a text. -/
def renderCycle (s : State) (text : FourBytes) (i : Fin 4) : List Event :=
  digitCycle s i (text.get i) (patternRead s text i)

theorem digitsBelow_length {n : Nat} (hn : n ≤ 4) : (digitsBelow n).length = n := by
  simp [digitsBelow, hn]

theorem digitCycles_append (s : State) (text : FourBytes) (k : Nat) (is js : List (Fin 4)) :
    digitCycles s text k (is ++ js) =
      digitCycles s text k is ++
        digitCycles s text (k + (is.map fun i => drawsOfRead s.params (text.get i)).sum) js := by
  induction is generalizing k with
  | nil => rfl
  | cons i is ih => simp [digitCycles, ih, Nat.add_assoc]

/-- The free values are numbered through the pass, so each digit's cycle is its own function of the state. -/
theorem digitCycles_digitsBelow (s : State) (text : FourBytes) (n : Nat) :
    digitCycles s text s.draws (digitsBelow n) = (digitsBelow n).flatMap (renderCycle s text) := by
  induction n with
  | zero => rfl
  | succ n ih =>
    by_cases hn : n < 4
    · have hsucc : digitsBelow (n + 1) = digitsBelow n ++ [⟨n, hn⟩] := by
        interval_cases n <;> rfl
      rw [hsucc, digitCycles_append, ih, List.flatMap_append, List.flatMap_singleton]
      simp [digitCycles, renderCycle, patternRead, drawNumber]
    · have hall : digitsBelow (n + 1) = digitsBelow n := by
        rw [digitsBelow, digitsBelow, List.take_of_length_le (by simp; omega),
          List.take_of_length_le (by simp; omega)]
      rw [hall, ih]

theorem renderExpansion_eq_flatMap (s : State) (text : FourBytes) :
    renderExpansion s text = (digitsBelow s.ndig.toNat).flatMap (renderCycle s text) :=
  digitCycles_digitsBelow s text _

theorem renderCycle_length (s : State) (text : FourBytes) (i : Fin 4) : (renderCycle s text i).length = 75 := rfl

theorem flatMap_renderCycle_length (s : State) (text : FourBytes) {n : Nat} (hn : n ≤ 4) :
    ((digitsBelow n).flatMap (renderCycle s text)).length = 75 * n := by
  simp [List.length_flatMap, renderCycle_length, digitsBelow_length hn, Nat.mul_comm]

theorem renderExpansion_length {s : State} (text : FourBytes) (hn : s.ndig.toNat ≤ 4) :
    (renderExpansion s text).length = 75 * s.ndig.toNat := by
  rw [renderExpansion_eq_flatMap, flatMap_renderCycle_length s text hn]

/-! ### Where a cycle stands in the pass -/

theorem digitsBelow_eq_append_cons {n : Nat} {i : Fin 4} (hi : i.val < n) :
    ∃ rest, digitsBelow n = digitsBelow i.val ++ i :: rest := by
  have hlen := digitsBelow_length i.isLt.le
  have hall : ∀ j : Fin 4, [0, 1, 2, 3] = digitsBelow j.val ++ j :: List.drop (j.val + 1) [0, 1, 2, 3] := by decide
  obtain ⟨d, rfl⟩ := Nat.exists_eq_add_of_lt hi
  refine ⟨(List.drop (i.val + 1) [0, 1, 2, 3]).take d, ?_⟩
  calc digitsBelow (i.val + d + 1)
      = List.take (i.val + (d + 1)) (digitsBelow i.val ++ i :: List.drop (i.val + 1) [0, 1, 2, 3]) :=
        congrArg (List.take _) (hall i)
    _ = digitsBelow i.val ++ i :: (List.drop (i.val + 1) [0, 1, 2, 3]).take d := by
        rw [List.take_append, List.take_of_length_le (by omega), hlen, Nat.add_sub_cancel_left, List.take_succ_cons]

/-- Before the cycle of digit `i` stand the cycles of the digits to its left. -/
theorem renderExpansion_eq_append {s : State} (text : FourBytes) {i : Fin 4} (hi : i.val < s.ndig.toNat) :
    ∃ rest, renderExpansion s text =
      digitCycles s text s.draws (digitsBelow i.val) ++ (renderCycle s text i ++ rest) := by
  obtain ⟨later, hsplit⟩ := digitsBelow_eq_append_cons hi
  refine ⟨later.flatMap (renderCycle s text), ?_⟩
  rw [renderExpansion_eq_flatMap, hsplit, digitCycles_digitsBelow, List.flatMap_append, List.flatMap_cons]

theorem digitCycles_digitsBelow_length (s : State) (text : FourBytes) (i : Fin 4) :
    (digitCycles s text s.draws (digitsBelow i.val)).length = 75 * i.val := by
  rw [digitCycles_digitsBelow, flatMap_renderCycle_length s text i.isLt.le]

/-- Event `75 * i + r` of the pass is event `r` of the cycle of digit `i`. -/
theorem renderExpansion_getElem? {s : State} (text : FourBytes) {i : Fin 4} (hi : i.val < s.ndig.toNat) {r : Nat}
    (hr : r < 75) : (renderExpansion s text)[75 * i.val + r]? = (renderCycle s text i)[r]? := by
  obtain ⟨rest, hsplit⟩ := renderExpansion_eq_append text hi
  have hlen := digitCycles_digitsBelow_length s text i
  rw [hsplit, List.getElem?_append_right (by omega), hlen, Nat.add_sub_cancel_left, List.getElem?_append_left hr]

/-- The first `75 * i + r` events of the pass are the cycles of the digits to the left and `r` events of digit `i`'s. -/
theorem performAll_renderExpansion_take {s : State} (text : FourBytes) {i : Fin 4} (hi : i.val < s.ndig.toNat)
    {r : Nat} (hr : r ≤ 75) (u : State) :
    performAll ((renderExpansion s text).take (75 * i.val + r)) u =
      performAll ((renderCycle s text i).take r) (performAll (digitCycles s text s.draws (digitsBelow i.val)) u) := by
  obtain ⟨rest, hsplit⟩ := renderExpansion_eq_append text hi
  rw [hsplit, ← digitCycles_digitsBelow_length s text i, List.take_length_add_append, List.take_append_of_le_length hr,
    performAll_append]

/-! ### The digit-select writes (R160) -/

theorem digitWrites_append (es fs : List Event) : digitWrites (es ++ fs) = digitWrites es ++ digitWrites fs := by
  induction es with
  | nil => rfl
  | cons e es ih =>
    cases e with
    | pinLevel r l => cases hr : roleDigit r <;> simp [digitWrites, hr, ih]
    | pinDir r => exact ih
    | wait n => exact ih
    | memRead c p => exact ih

theorem digitWrites_renderCycle (s : State) (text : FourBytes) (i : Fin 4) :
    digitWrites (renderCycle s text i) = [(i, s.digitOn), (i, s.digitOff)] := by
  have hshow : digitWrites (digitShow s (text.get i) (patternRead s text i)) = [] := rfl
  simp [renderCycle, digitCycle_eq, digitWrites, digitWrites_append, hshow]

theorem digitWrites_flatMap_renderCycle (s : State) (text : FourBytes) (is : List (Fin 4)) :
    digitWrites (is.flatMap (renderCycle s text)) = is.flatMap fun i => [(i, s.digitOn), (i, s.digitOff)] := by
  induction is with
  | nil => rfl
  | cons i is ih => rw [List.flatMap_cons, List.flatMap_cons, digitWrites_append, digitWrites_renderCycle, ih]

theorem digitWrites_renderExpansion (s : State) (text : FourBytes) :
    digitWrites (renderExpansion s text) =
      (digitsBelow s.ndig.toNat).flatMap fun i => [(i, s.digitOn), (i, s.digitOff)] := by
  rw [renderExpansion_eq_flatMap, digitWrites_flatMap_renderCycle]

/-- A write to a digit line is listed among the digit writes. -/
theorem mem_digitWrites_of_mem {es : List Event} {i : Fin 4} {l : Bool} (h : .pinLevel (digitRole i) l ∈ es) :
    (i, l) ∈ digitWrites es := by
  obtain ⟨before, after, rfl⟩ := List.append_of_mem h
  simp [digitWrites_append, digitWrites]

/-- RENDER writes no line of a digit at or beyond the count (R150). -/
theorem digitLevel_not_mem_renderExpansion {s : State} (text : FourBytes) {i : Fin 4} (hi : s.ndig.toNat ≤ i.val)
    (l : Bool) : Event.pinLevel (digitRole i) l ∉ renderExpansion s text := by
  intro hmem
  have hw := mem_digitWrites_of_mem hmem
  rw [digitWrites_renderExpansion, List.mem_flatMap] at hw
  obtain ⟨j, hj, hij⟩ := hw
  have hlt := (mem_digitsBelow _ j).mp hj
  have heq : i = j := by
    simp only [List.mem_cons, Prod.mk.injEq, List.not_mem_nil, or_false] at hij
    exact hij.elim And.left And.left
  omega

/-! ### What stands before a closing (R154, R160) -/

/-- Wherever `e` occurs in the list, the events `w` stand just before it. -/
def PrecededBy (w : List Event) (e : Event) (es : List Event) : Prop :=
  ∀ before after, es = before ++ e :: after → ∃ earlier, before = earlier ++ w

theorem PrecededBy.append {w : List Event} {e : Event} {es fs : List Event} (hes : PrecededBy w e es)
    (hfs : PrecededBy w e fs) : PrecededBy w e (es ++ fs) := by
  intro before after h
  obtain ⟨mid, rfl, hmid⟩ | ⟨mid, rfl, hmid⟩ := List.append_eq_append_iff.mp h
  · obtain ⟨earlier, rfl⟩ := hfs _ _ hmid
    exact ⟨es ++ earlier, by rw [List.append_assoc]⟩
  · cases mid with
    | nil =>
      obtain ⟨earlier, hearlier⟩ := hfs [] after hmid.symm
      obtain ⟨-, rfl⟩ := List.append_eq_nil_iff.mp hearlier.symm
      exact ⟨before, by simp⟩
    | cons e' mid =>
      obtain ⟨rfl, -⟩ := List.cons.inj hmid
      exact hes _ _ rfl

theorem leavesDigitsAlone_digitLevel (i : Fin 4) (l : Bool) :
    leavesDigitsAlone (.pinLevel (digitRole i) l) = false := by
  match i with
  | 0 | 1 | 2 | 3 => rfl

/-- Events that leave the digits alone are no writes to a digit line. -/
theorem digitLevel_not_mem_of_alone {es : List Event} (hes : es.all leavesDigitsAlone = true) (i : Fin 4) (l : Bool) :
    Event.pinLevel (digitRole i) l ∉ es := by
  intro hmem
  have halone := List.all_eq_true.mp hes _ hmem
  rw [leavesDigitsAlone_digitLevel] at halone
  cases halone

/-- In one cycle the off level is written once, just after the blanking write, if it is not the on level (R154). -/
theorem precededBy_digitCycle {s : State} (hl : LevelsInverse s) (i j : Fin 4) (c p : Byte) :
    PrecededBy (shiftWrite s.params.allOff) (.pinLevel (digitRole i) s.digitOff) (digitCycle s j c p) := by
  intro before after h
  have hne : s.digitOff ≠ s.digitOn := by simp [hl.1]
  have hfront : Event.pinLevel (digitRole i) s.digitOff ∉ .pinLevel (digitRole j) s.digitOn :: digitShow s c p := by
    simp [hne, digitLevel_not_mem_of_alone (digitShow_leavesDigitsAlone s c p)]
  obtain ⟨rfl, -, -⟩ := (List.append_cons_inj_of_notMem hfront (by simp)).mp (digitCycle_eq s j c p ▸ h)
  exact ⟨_ :: ([.memRead c p] ++ shiftWrite (not8 p) ++ [.wait (onHold s)]), rfl⟩

theorem precededBy_digitCycles {s : State} (hl : LevelsInverse s) (i : Fin 4) (text : FourBytes) (k : Nat)
    (is : List (Fin 4)) :
    PrecededBy (shiftWrite s.params.allOff) (.pinLevel (digitRole i) s.digitOff) (digitCycles s text k is) := by
  induction is generalizing k with
  | nil => exact fun before after h => by simp [digitCycles] at h
  | cons j js ih => exact (precededBy_digitCycle hl i j _ _).append (ih _)

/-- Settles O40: one pair of writes for each cycle, and each closing after its own blanking write. -/
theorem oneWindowForEachDigit : Obligations.OneWindowForEachDigit := by
  unfold Obligations.OneWindowForEachDigit
  intro t0 t1 t2 t3 m s a hl ha
  rw [eq_of_accept_render ha, start_expansion]
  refine ⟨digitWrites_renderExpansion s _, fun i before after h => ?_⟩
  rw [List.append_assoc] at h
  exact precededBy_digitCycles hl i _ _ _ before after h

/-! ### The ROM reads (R152, R158) -/

theorem romReads_append (es fs : List Event) : romReads (es ++ fs) = romReads es ++ romReads fs := by
  induction es with
  | nil => rfl
  | cons e es ih =>
    cases e with
    | memRead c p => exact congrArg (c :: ·) ih
    | pinLevel r l => exact ih
    | pinDir r => exact ih
    | wait n => exact ih

theorem romReads_renderCycle (s : State) (text : FourBytes) (i : Fin 4) :
    romReads (renderCycle s text i) = [text.get i] := rfl

theorem romReads_renderExpansion (s : State) (text : FourBytes) :
    romReads (renderExpansion s text) = (digitsBelow s.ndig.toNat).map text.get := by
  rw [renderExpansion_eq_flatMap]
  induction digitsBelow s.ndig.toNat with
  | nil => rfl
  | cons i is ih => rw [List.flatMap_cons, romReads_append, romReads_renderCycle, ih]; rfl

/-! ### The waits (R153, R155, R162) -/

theorem waitSum_append (es fs : List Event) : waitSum (es ++ fs) = waitSum es + waitSum fs := by
  induction es with
  | nil => exact (Nat.zero_add _).symm
  | cons e es ih =>
    cases e with
    | wait n => simp [waitSum, ih, Nat.add_assoc]
    | pinLevel r l => exact ih
    | pinDir r => exact ih
    | memRead c p => exact ih

theorem waitSum_renderCycle (s : State) (text : FourBytes) (i : Fin 4) :
    waitSum (renderCycle s text i) = onHold s + offTime s := rfl

theorem waitSum_renderExpansion {s : State} (text : FourBytes) (hn : s.ndig.toNat ≤ 4) :
    waitSum (renderExpansion s text) = s.ndig.toNat * (onHold s + offTime s) := by
  have hsum (is : List (Fin 4)) :
      waitSum (is.flatMap (renderCycle s text)) = is.length * (onHold s + offTime s) := by
    induction is with
    | nil => simp [waitSum]
    | cons i is ih =>
      rw [List.flatMap_cons, waitSum_append, waitSum_renderCycle, ih, List.length_cons, Nat.succ_mul, Nat.add_comm]
  rw [renderExpansion_eq_flatMap, hsum, digitsBelow_length hn]

/-- A digit's two holds last the period, and one microsecond more when ON_TIME is 0 (R162). -/
theorem onHold_add_offTime {s : State} (hm : s.params.onHoldMode = .clamp)
    (hp : s.onTime.toNat ≤ s.params.framePeriod.toNat) :
    onHold s + offTime s = s.params.framePeriod.toNat + (if s.onTime.toNat = 0 then 1 else 0) := by
  rw [onHold_of_clamp hm, offTime]
  split <;> omega

theorem maxPassesPerSecond_mul {s : State} (h : 0 < s.ndig.toNat * s.params.framePeriod.toNat) :
    maxPassesPerSecond s * (s.ndig.toNat * s.params.framePeriod.toNat : Nat) = 1000000 :=
  div_mul_cancel₀ _ (Nat.cast_ne_zero.mpr h.ne')

/-- Passes that each last at least NDIG * FRAME_PERIOD keep to the rate of R217. -/
theorem passes_le_maxPassesPerSecond_mul {s : State} (h : 0 < s.ndig.toNat * s.params.framePeriod.toNat)
    {passes micros : Nat} (hle : passes * (s.ndig.toNat * s.params.framePeriod.toNat) ≤ micros) :
    (passes : Rat) * 1000000 ≤ maxPassesPerSecond s * (micros : Rat) := by
  have hrate : 0 ≤ maxPassesPerSecond s := by unfold maxPassesPerSecond; positivity
  calc (passes : Rat) * 1000000
      = maxPassesPerSecond s * (passes * (s.ndig.toNat * s.params.framePeriod.toNat) : Nat) := by
        rw [← maxPassesPerSecond_mul h, Nat.cast_mul passes]; ring
    _ ≤ maxPassesPerSecond s * micros := mul_le_mul_of_nonneg_left (Nat.cast_le.mpr hle) hrate

/-- Settles O46: NDIG cycles, each with its two holds. -/
theorem waitsOfAPass : Obligations.WaitsOfAPass := by
  unfold Obligations.WaitsOfAPass
  intro t0 t1 t2 t3 m s a hcount hp hm ha
  have hsum : waitSum a.expansion =
      s.ndig.toNat * (s.params.framePeriod.toNat + (if s.onTime.toNat = 0 then 1 else 0)) := by
    rw [eq_of_accept_render ha, start_expansion, waitSum_renderExpansion _ hcount.2, onHold_add_offTime hm hp]
  have hlower : s.ndig.toNat * s.params.framePeriod.toNat ≤ waitSum a.expansion :=
    hsum ▸ Nat.mul_le_mul_left _ (Nat.le_add_right _ _)
  refine ⟨fun h1 => ?_, fun h0 => ?_, hlower, fun hperiod => ?_⟩
  · rw [hsum, if_neg (Nat.ne_of_gt h1), Nat.add_zero]
  · rw [hsum, if_pos h0]
  · have hpos := Nat.mul_pos hcount.1 hperiod
    exact ⟨maxPassesPerSecond_mul hpos, fun passes micros hle =>
      passes_le_maxPassesPerSecond_mul hpos ((Nat.mul_le_mul_left passes hlower).trans hle)⟩

/-! ### What the pass depends on (R157, R158) -/

theorem renderExpansion_congr_text {s : State} {text text' : FourBytes}
    (h : ∀ i : Fin 4, i.val < s.ndig.toNat → text.get i = text'.get i) :
    renderExpansion s text = renderExpansion s text' := by
  rw [renderExpansion_eq_flatMap, renderExpansion_eq_flatMap]
  refine List.flatMap_congr fun i hi => ?_
  have hlt := (mem_digitsBelow _ i).mp hi
  have hnumber : drawNumber s text i = drawNumber s text' i := by
    refine congrArg (fun ns => s.draws + List.sum ns) (List.map_congr_left fun j hj => ?_)
    rw [h j (((mem_digitsBelow _ j).mp hj).trans hlt)]
  rw [renderCycle, renderCycle, patternRead, patternRead, hnumber, h i hlt]

theorem renderDraws_congr_text {s : State} {text text' : FourBytes}
    (h : ∀ i : Fin 4, i.val < s.ndig.toNat → text.get i = text'.get i) : renderDraws s text = renderDraws s text' :=
  congrArg List.sum (List.map_congr_left fun i hi => by rw [h i ((mem_digitsBelow _ i).mp hi)])

/-- With no free value drawn, the pass does not depend on how many were drawn before it. -/
theorem renderExpansion_of_no_draw {s : State} {text : FourBytes}
    (h : s.params.unsupported = .blank ∨ ∀ i : Fin 4, i.val < s.ndig.toNat → text.get i ∈ s.params.supported)
    (text' : FourBytes) (m : Byte) (n : Nat) (tr : List Event) :
    renderExpansion { s with text := text', dpmask := m, draws := n, trace := tr } text = renderExpansion s text := by
  rw [renderExpansion_eq_flatMap, renderExpansion_eq_flatMap]
  refine List.flatMap_congr fun i hi => ?_
  have hpattern : patternRead { s with text := text', dpmask := m, draws := n, trace := tr } text i =
      patternRead s text i :=
    glyphPattern_of_no_draw (h.imp_right fun hsup => hsup i ((mem_digitsBelow _ i).mp hi)) ..
  rw [renderCycle, hpattern]
  rfl

/-- No event reads the text latches or the mask (R157). -/
theorem perform_withText (e : Event) (text : FourBytes) (m : Byte) (s : State) :
    perform e { s with text := text, dpmask := m } = { perform e s with text := text, dpmask := m } := by
  cases e with
  | pinDir r => rfl
  | wait n => rfl
  | memRead c p => rfl
  | pinLevel r l =>
    have hedge (q : Role) : isRisingEdge { s with text := text, dpmask := m } q l = isRisingEdge s q l := rfl
    cases r with
    | sclk => simp only [perform, emit, applyEvent, pinLevel, registerReaction, hedge]; split <;> rfl
    | slatch => simp only [perform, emit, applyEvent, pinLevel, registerReaction, hedge]; split <;> rfl
    | dig0 | dig1 | dig2 | dig3 | sdata => rfl

theorem performAll_withText (es : List Event) (text : FourBytes) (m : Byte) (s : State) :
    performAll es { s with text := text, dpmask := m } = { performAll es s with text := text, dpmask := m } := by
  induction es generalizing s with
  | nil => rfl
  | cons e es ih => rw [performAll_cons, performAll_cons, perform_withText, ih]

theorem completeAtOnce_withText (op : BitVec 4) (es : List Event) (text : FourBytes) (m : Byte) (s : State) :
    completeAtOnce op es { s with text := text, dpmask := m } =
      { completeAtOnce op es s with text := text, dpmask := m } := by
  rw [completeAtOnce_eq, completeAtOnce_eq, performAll_withText]

/-- Settles O45: the same events from the same state, but for the latches that no event reads. -/
theorem maskAndUnusedSlotsHaveNoEffect : Obligations.MaskAndUnusedSlotsHaveNoEffect := by
  unfold Obligations.MaskAndUnusedSlotsHaveNoEffect
  intro t0 t1 t2 t3 m u0 u1 u2 u3 m' s hs hc hv text text' hsame
  have hok (v0 v1 v2 v3 n : Byte) : acceptable (.render v0 v1 v2 v3 n) s = true := Bool.and_eq_true_iff.mpr ⟨hc, hv⟩
  have hlatch : latchText text' m' s = { latchText text m s with text := text', dpmask := m' } := by
    rw [latchText, ← renderDraws_congr_text hsame]
    rfl
  refine ⟨_, renderExpansion s text, exec_render hs (hok ..), ?_, ?_, romReads_renderExpansion s text⟩
  · rw [exec_render hs (hok ..), ← renderExpansion_congr_text hsame, hlatch, completeAtOnce_withText]
  · rw [completeAtOnce_eq, performAll_trace, latchText_trace]

end Sys2Proof.Machine
end

section
/-! PROOFS. What a RENDER does to the pins and the external register: the cycle of one digit event by event, what is lit
on the way, and the whole pass as one equation (43_render.md R150 to R155, R158, R159, R161). -/

namespace Sys2Proof.Machine

/-! ### The first events of one digit's cycle (R151 to R155) -/

theorem performAll_take_add (es : List Event) (m r : Nat) (s : State) :
    performAll (es.take (m + r)) s = performAll ((es.drop m).take r) (performAll (es.take m) s) := by
  rw [List.take_add, performAll_append]

/-- Up to the latch pulse of step 3 the outputs are what they were (R211). -/
theorem srOut_before_show (s u : State) (i : Fin 4) (c p : Byte) {r : Nat} (hr : r ≤ 36) :
    (performAll ((digitCycle s i c p).take r) u).srOut = u.srOut := by
  have hnot : Event.pinLevel .slatch true ∉ (digitCycle s i c p).take 36 := by
    rw [show (digitCycle s i c p).take 36 = [.pinLevel (digitRole i) s.digitOn, .memRead c p] ++
      (shiftWrite (not8 p)).take 34 from rfl]
    simp [latchHigh_not_mem_shiftWrite_take, (digitRole_ne_slatch i).symm]
  have h := throughout_srOut_of_not_mem hnot u r
  rwa [List.take_take, Nat.min_eq_left hr] at h

/-- From the latch pulse of step 3 to that of step 5 the outputs are NOT8 of the pattern (R153). -/
theorem srOut_shown (s : State) {u : State} (i : Fin 4) (c p : Byte) (hu : SerialDriven u) {r : Nat} (h37 : 37 ≤ r)
    (h72 : r ≤ 72) : (performAll ((digitCycle s i c p).take r) u).srOut = not8 p := by
  obtain ⟨k, rfl⟩ := Nat.exists_eq_add_of_le h37
  have hshow : (performAll ((digitCycle s i c p).take 37) u).srOut = not8 p := by
    rw [show (digitCycle s i c p).take 37 = [.pinLevel (digitRole i) s.digitOn, .memRead c p] ++
      shiftWrite (not8 p) from rfl, performAll_append, performAll_shiftWrite _ _ (by simpa [SerialDriven] using hu)]
  have hnot : Event.pinLevel .slatch true ∉ ((digitCycle s i c p).drop 37).take 35 := by
    rw [show ((digitCycle s i c p).drop 37).take 35 = .wait (onHold s) :: (shiftWrite s.params.allOff).take 34 from rfl]
    simp [latchHigh_not_mem_shiftWrite_take]
  have h := throughout_srOut_of_not_mem hnot (performAll ((digitCycle s i c p).take 37) u) k
  rwa [List.take_take, Nat.min_eq_left (by omega), ← performAll_take_add, hshow] at h

/-- From the latch pulse of step 5 on the outputs are ALL_OFF_BYTE (R154, R155). -/
theorem srOut_blanked (s : State) {u : State} (i : Fin 4) (c p : Byte) (hu : SerialDriven u) {r : Nat} (h73 : 73 ≤ r) :
    (performAll ((digitCycle s i c p).take r) u).srOut = s.params.allOff := by
  obtain ⟨k, rfl⟩ := Nat.exists_eq_add_of_le h73
  have hblank : (performAll ((digitCycle s i c p).take 73) u).srOut = s.params.allOff := by
    rw [show (digitCycle s i c p).take 73 = ([.pinLevel (digitRole i) s.digitOn, .memRead c p] ++
      shiftWrite (not8 p) ++ [.wait (onHold s)]) ++ shiftWrite s.params.allOff from rfl, performAll_append,
      performAll_shiftWrite]
    rw [SerialDriven, performAll_oe_of_no_pinDir]
    · exact hu
    · exact fun e he => digitCycle_isPinDir s i c p e (List.mem_append_left _ (List.mem_append_left _ he))
  have hnot : Event.pinLevel .slatch true ∉ (digitCycle s i c p).drop 73 := by
    rw [show (digitCycle s i c p).drop 73 = [.pinLevel (digitRole i) s.digitOff, .wait (offTime s)] from rfl]
    simp [(digitRole_ne_slatch i).symm]
  have h := throughout_srOut_of_not_mem hnot (performAll ((digitCycle s i c p).take 73) u) k
  rwa [← performAll_take_add, hblank] at h

/-- From step 1 to step 6 digit `i` conducts, and no other (R151, R154). -/
theorem conducts_in_window {s u : State} {i : Fin 4} (c p : Byte) (hu : Dark u) (hoe : u.oe.get (digitRole i) = true)
    (hon : s.digitOn = u.digitOn) {r : Nat} (h1 : 1 ≤ r) (h73 : r ≤ 73) (j : Fin 4) :
    conducts (performAll ((digitCycle s i c p).take r) u) j = decide (j = i) := by
  obtain ⟨k, rfl⟩ := Nat.exists_eq_add_of_le' h1
  have hfront : (digitCycle s i c p).take (k + 1) =
      .pinLevel (digitRole i) s.digitOn :: (digitShow s c p).take k :=
    congrArg (Event.pinLevel (digitRole i) s.digitOn :: ·) (List.take_append_of_le_length (Nat.le_of_succ_le_succ h73))
  have halone : ((digitShow s c p).take k).all leavesDigitsAlone = true :=
    List.all_eq_true.mpr fun e he =>
      List.all_eq_true.mp (digitShow_leavesDigitsAlone s c p) e (List.mem_of_mem_take he)
  rw [hfront, performAll_cons, conducts_digits_alone _ halone]
  by_cases hj : j = i
  · subst hj
    simp [conducts, hoe, hon]
  · rw [conducts_perform_digitLevel_ne hj, hu j, decide_eq_false hj]

/-- After step 6 no digit conducts (R154, R155). -/
theorem dark_after_window {s u : State} (i : Fin 4) (c p : Byte) (hu : Dark u) (hoff : s.digitOff = !u.digitOn)
    {r : Nat} (h74 : 74 ≤ r) : Dark (performAll ((digitCycle s i c p).take r) u) := by
  obtain ⟨k, rfl⟩ := Nat.exists_eq_add_of_le h74
  have hclosed : Dark (performAll ((digitCycle s i c p).take 74) u) := by
    have hopen := throughout_onlyConducts_digitCycle i c p hu hoff 73
    rw [performAll_take_add _ 73 1]
    exact hopen.perform_digitOff (by simpa using hoff)
  rw [performAll_take_add]
  exact throughout_dark_alone (es := [.wait (offTime s)]) rfl hclosed k

/-! ### The state in which a digit's cycle begins -/

/-- An accepted RENDER begins digit `i`'s cycle after the cycles of the digits to its left. -/
def beforeCycle (s a : State) (text : FourBytes) (i : Fin 4) : State :=
  performAll (digitCycles s text s.draws (digitsBelow i.val)) a

/-- The pass of an operating engine, `a` being the state at its acceptance. -/
structure Refreshing (s a : State) (text : FourBytes) : Prop where
  expansion : a.expansion = renderExpansion s text
  text_eq : a.text = text
  params : a.params = s.params
  digitOn : a.digitOn = s.digitOn
  digitOff : a.digitOff = s.digitOff
  ndig : a.ndig = s.ndig
  levels : LevelsInverse a
  quiescent : Quiescent a

theorem refreshing_of_accept {t0 t1 t2 t3 m : Byte} {s a : State} (hs : Operating s)
    (ha : accept (.render t0 t1 t2 t3 m) s = .next a) : Refreshing s a ⟨t0, t1, t2, t3⟩ := by
  obtain ⟨-, -, -, hlev, -, hq⟩ := hs
  rw [eq_of_accept_render ha]
  exact ⟨rfl, rfl, rfl, rfl, rfl, rfl, hlev, hq⟩

section
variable {s a : State} {text : FourBytes}

/-- Each cycle begins with quiescent pins (R36). -/
theorem Refreshing.quiescent_beforeCycle (h : Refreshing s a text) {i : Fin 4} (hi : i.val < s.ndig.toNat) :
    Quiescent (beforeCycle s a text i) := by
  refine (safe_digitCycles text s.draws (digitsBelow i.val) (fun j hj => ?_) h.digitOff.symm h.levels h.quiescent).2
  rw [h.ndig]
  exact ((mem_digitsBelow _ j).mp hj).trans hi

theorem Refreshing.digitOn_beforeCycle (h : Refreshing s a text) (i : Fin 4) :
    s.digitOn = (beforeCycle s a text i).digitOn := by
  rw [beforeCycle, performAll_digitOn, h.digitOn]

theorem Refreshing.digitOff_beforeCycle (h : Refreshing s a text) (i : Fin 4) :
    s.digitOff = !(beforeCycle s a text i).digitOn := by
  rw [beforeCycle, performAll_digitOn, ← h.digitOff, h.levels.1]

theorem Refreshing.dark_beforeCycle (h : Refreshing s a text) {i : Fin 4} (hi : i.val < s.ndig.toNat) :
    Dark (beforeCycle s a text i) :=
  dark_of_quiescent (by simpa [LevelsInverse, beforeCycle] using h.levels) (h.quiescent_beforeCycle hi)

theorem Refreshing.serialDriven_beforeCycle (h : Refreshing s a text) {i : Fin 4} (hi : i.val < s.ndig.toNat) :
    SerialDriven (beforeCycle s a text i) := by
  obtain ⟨-, hdata, hclk, hlatch, -⟩ := h.quiescent_beforeCycle hi
  exact ⟨hdata, hclk, hlatch⟩

theorem Refreshing.oe_beforeCycle (h : Refreshing s a text) {i : Fin 4} (hi : i.val < s.ndig.toNat) :
    (beforeCycle s a text i).oe.get (digitRole i) = true := by
  rw [((h.quiescent_beforeCycle hi).1 i).1, beforeCycle, performAll_ndig, h.ndig, decide_eq_true hi]

/-- A pass that starts blank begins each cycle with ALL_OFF_BYTE at the outputs (R159). -/
theorem Refreshing.srOut_beforeCycle (h : Refreshing s a text) (hblank : Blank a) (i : Fin 4) :
    (beforeCycle s a text i).srOut = s.params.allOff := by
  obtain ⟨-, hdata, hclk, hlatch, -⟩ := h.quiescent
  cases hbelow : digitsBelow i.val with
  | nil => rw [beforeCycle, hbelow, digitCycles, performAll_nil, hblank.2, h.params]
  | cons j js =>
    have hb := blank_after_digitCycles text s.draws (is := digitsBelow i.val) (by simp [hbelow])
      ⟨hdata, hclk, hlatch⟩ h.params
    rw [beforeCycle, hb.2, performAll_params, h.params]

/-- The state `r` events into the cycle of digit `i`. -/
theorem Refreshing.performAll_take (h : Refreshing s a text) {i : Fin 4} (hi : i.val < s.ndig.toNat) {r : Nat}
    (hr : r ≤ 75) :
    performAll (a.expansion.take (75 * i.val + r)) a =
      performAll ((renderCycle s text i).take r) (beforeCycle s a text i) := by
  rw [h.expansion, performAll_renderExpansion_take text hi hr, beforeCycle]

theorem Refreshing.expansion_getElem? (h : Refreshing s a text) {i : Fin 4} (hi : i.val < s.ndig.toNat) {r : Nat}
    (hr : r < 75) : a.expansion[75 * i.val + r]? = (renderCycle s text i)[r]? := by
  rw [h.expansion, renderExpansion_getElem? text hi hr]

theorem Refreshing.memRead (h : Refreshing s a text) {i : Fin 4} (hi : i.val < s.ndig.toNat) :
    a.expansion[75 * i.val + 1]? = some (.memRead (text.get i) (patternRead s text i)) :=
  h.expansion_getElem? hi (by decide)

/-- In the window of digit `i` it alone conducts (R151, R154). -/
theorem Refreshing.conducts_window (h : Refreshing s a text) {i : Fin 4} (hi : i.val < s.ndig.toNat) {r : Nat}
    (h1 : 1 ≤ r) (h73 : r ≤ 73) (j : Fin 4) :
    conducts (performAll (a.expansion.take (75 * i.val + r)) a) j = decide (j = i) := by
  rw [h.performAll_take hi (by omega)]
  exact conducts_in_window _ _ (h.dark_beforeCycle hi) (h.oe_beforeCycle hi) (h.digitOn_beforeCycle i) h1 h73 j

/-- Outside it no digit conducts. -/
theorem Refreshing.dark_outside (h : Refreshing s a text) {i : Fin 4} (hi : i.val < s.ndig.toNat) {r : Nat}
    (hr : r ≤ 75) (hout : r = 0 ∨ 74 ≤ r) : Dark (performAll (a.expansion.take (75 * i.val + r)) a) := by
  rw [h.performAll_take hi hr]
  obtain rfl | h74 := hout
  · exact h.dark_beforeCycle hi
  · exact dark_after_window i _ _ (h.dark_beforeCycle hi) (h.digitOff_beforeCycle i) h74

/-- The outputs while the glyph of digit `i` is shown (R153). -/
theorem Refreshing.srOut_glyph (h : Refreshing s a text) {i : Fin 4} (hi : i.val < s.ndig.toNat) {r : Nat}
    (h37 : 37 ≤ r) (h72 : r ≤ 72) :
    (performAll (a.expansion.take (75 * i.val + r)) a).srOut = not8 (patternRead s text i) := by
  rw [h.performAll_take hi (by omega)]
  exact srOut_shown s i _ _ (h.serialDriven_beforeCycle hi) h37 h72

/-- The outputs after the blanking write of digit `i` (R154). -/
theorem Refreshing.srOut_after_blanking (h : Refreshing s a text) {i : Fin 4} (hi : i.val < s.ndig.toNat) {r : Nat}
    (h73 : 73 ≤ r) (h75 : r ≤ 75) :
    (performAll (a.expansion.take (75 * i.val + r)) a).srOut = s.params.allOff := by
  rw [h.performAll_take hi h75]
  exact srOut_blanked s i _ _ (h.serialDriven_beforeCycle hi) h73

/-- The outputs before the glyph of digit `i`, in a pass that starts blank (R161). -/
theorem Refreshing.srOut_before_glyph (h : Refreshing s a text) (hblank : Blank a) {i : Fin 4}
    (hi : i.val < s.ndig.toNat) {r : Nat} (hr : r ≤ 36) :
    (performAll (a.expansion.take (75 * i.val + r)) a).srOut = s.params.allOff := by
  rw [h.performAll_take hi (by omega), renderCycle, srOut_before_show s _ i _ _ hr, h.srOut_beforeCycle hblank i]

end

/-! ### What is lit during the pass (R153, R155, R161) -/

theorem conducting_eq_singleton {u : State} {i : Fin 4} (h : ∀ j, conducts u j = decide (j = i)) :
    conducting u = [i] := by
  have hfilter : ∀ i : Fin 4, List.filter (fun j => decide (j = i)) [0, 1, 2, 3] = [i] := by decide
  rw [conducting, funext h, hfilter]

theorem bitOf_not8 (v : Byte) (k : Fin 8) : bitOf (not8 v) k.val = !(bitOf v k.val) := by
  simp [bitOf, not8, k.isLt]

/-- Settles O41: the on-hold begins inside the window, with the glyph latched. -/
theorem onHoldShowsTheGlyph : Obligations.OnHoldShowsTheGlyph := by
  unfold Obligations.OnHoldShowsTheGlyph
  intro t0 t1 t2 t3 m s a hs hm ha i hi u
  have h := refreshing_of_accept hs ha
  have hwindow (j : Fin 4) : conducts u j = decide (j = i) := h.conducts_window hi (by decide) (by decide) j
  have hglyph : u.srOut = not8 (patternRead s ⟨t0, t1, t2, t3⟩ i) := h.srOut_glyph hi le_rfl (by decide)
  refine ⟨?_, by omega, conducting_eq_singleton hwindow, _, _, h.memRead hi, by rw [h.text_eq], hglyph, fun seg => ?_⟩
  · rw [h.expansion_getElem? hi (by decide), ← onHold_of_clamp hm]
    rfl
  · rw [lit, hwindow i, decide_eq_true rfl, hglyph, bitOf_not8, Bool.not_not, Bool.true_and, bitOf]

/-- Settles O42: the off-hold begins with the window closed, after the blanking write, and ends the cycle. -/
theorem offHoldIsDark : Obligations.OffHoldIsDark := by
  unfold Obligations.OffHoldIsDark
  intro t0 t1 t2 t3 m s a hs ha
  have h := refreshing_of_accept hs ha
  obtain ⟨-, -, -, -, hcount, -⟩ := hs
  refine ⟨by rw [h.expansion, renderExpansion_length _ hcount.2], ?_⟩
  intro i hi u
  refine ⟨?_, ?_, ?_⟩
  · exact h.expansion_getElem? hi (by decide)
  · exact (h.dark_outside hi (by decide) (.inr le_rfl)).conducting_eq_nil
  · exact h.srOut_after_blanking hi (by decide) (by decide)

/-- A number of events within the pass lies in the cycle of some used digit. -/
theorem exists_cycle_of_le {n k : Nat} (h1 : 1 ≤ n) (h4 : n ≤ 4) (hk : k ≤ 75 * n) :
    ∃ (q : Fin 4) (r : Nat), q.val < n ∧ r ≤ 75 ∧ k = 75 * q.val + r := by
  by_cases hlast : k = 75 * n
  · exact ⟨⟨n - 1, by omega⟩, 75, by simp only; omega, le_rfl, by simp only; omega⟩
  · exact ⟨⟨k / 75, by omega⟩, k % 75, by simp only; omega, by omega, by simp only; omega⟩

/-- In a pass that starts blank, digit `q`'s cycle lights the segments of its own glyph, from the latch pulse of step 3
to the one of step 5. -/
theorem Refreshing.lit_iff {s a : State} {text : FourBytes} (h : Refreshing s a text) (hblank : Blank a)
    (hoff : s.params.allOff = 0xFF#8) {q : Fin 4} (hq : q.val < s.ndig.toNat) {r : Nat} (hr : r ≤ 75) (i : Fin 4)
    (seg : Fin 8) :
    lit (performAll (a.expansion.take (75 * q.val + r)) a) i seg = true ↔
      i = q ∧ 37 ≤ r ∧ r ≤ 72 ∧ bitOf (patternRead s text q) seg.val = true := by
  have hblankBit : bitOf s.params.allOff seg.val = true := by
    rw [hoff]
    revert seg
    decide
  by_cases hopen : 1 ≤ r ∧ r ≤ 73
  · rw [lit, h.conducts_window hq hopen.1 hopen.2]
    by_cases hshown : 37 ≤ r ∧ r ≤ 72
    · rw [h.srOut_glyph hq hshown.1 hshown.2, bitOf_not8]
      simp [hshown]
    · have hout : (performAll (a.expansion.take (75 * q.val + r)) a).srOut = s.params.allOff := by
        by_cases h36 : r ≤ 36
        · exact h.srOut_before_glyph hblank hq h36
        · exact h.srOut_after_blanking hq (by omega) hr
      rw [hout, hblankBit]
      simp only [Bool.not_true, Bool.and_false, Bool.false_eq_true, false_iff]
      omega
  · rw [lit, h.dark_outside hq hr (by omega) i]
    simp only [Bool.false_and, Bool.false_eq_true, false_iff]
    omega

/-- Settles O43: every moment of the pass lies in the cycle of one digit, which lights its own glyph alone. -/
theorem nothingIsLitOutsideTheGlyph : Obligations.NothingIsLitOutsideTheGlyph := by
  unfold Obligations.NothingIsLitOutsideTheGlyph
  intro t0 t1 t2 t3 m s a hs hblank hoff ha k i seg hk
  have h := refreshing_of_accept hs ha
  have hblankA : Blank a := by rw [eq_of_accept_render ha]; exact hblank
  obtain ⟨-, -, -, -, ⟨hn1, hn4⟩, -⟩ := hs
  rw [h.expansion, renderExpansion_length _ hn4] at hk
  obtain ⟨q, r, hq, hr, rfl⟩ := exists_cycle_of_le hn1 hn4 hk
  rw [h.lit_iff hblankA hoff hq hr]
  constructor
  · rintro ⟨rfl, h37, h72, hbit⟩
    exact ⟨hq, by omega, by omega, _, _, h.memRead hq, hbit⟩
  · rintro ⟨hi, h37, h72, c, p, hread, hbit⟩
    obtain rfl : i = q := by omega
    rw [h.memRead hi] at hread
    cases hread
    exact ⟨rfl, by omega, by omega, hbit⟩

/-! ### The whole pass (R150, R159) -/

/-- The bits of two sets agree if those of the four digits and of the three serial lines do. -/
theorem RoleBits.ext_digits {b c : RoleBits} (hdigit : ∀ i, b.get (digitRole i) = c.get (digitRole i))
    (hdata : b.sdata = c.sdata) (hclk : b.sclk = c.sclk) (hlatch : b.slatch = c.slatch) : b = c := by
  refine RoleBits.ext_get b c fun r => ?_
  cases r with
  | dig0 => exact hdigit 0
  | dig1 => exact hdigit 1
  | dig2 => exact hdigit 2
  | dig3 => exact hdigit 3
  | sdata => exact hdata
  | sclk => exact hclk
  | slatch => exact hlatch

/-- The levels after the digits of a list have been put at the off level, one after another. -/
def digitsOff (off : Bool) (is : List (Fin 4)) (b : RoleBits) : RoleBits :=
  is.foldl (fun b i => b.set (digitRole i) off) b

theorem digitsOff_get (off : Bool) (is : List (Fin 4)) (b : RoleBits) (j : Fin 4) :
    (digitsOff off is b).get (digitRole j) = if j ∈ is then off else b.get (digitRole j) := by
  induction is generalizing b with
  | nil => rfl
  | cons i is ih =>
    rw [digitsOff, List.foldl_cons, ← digitsOff, ih]
    by_cases hj : j = i <;> simp [RoleBits.get_set, hj]

/-- The digits that are put off are the digits of the list, whatever the serial lines do before and after. -/
theorem digitsOff_serial (off : Bool) (is : List (Fin 4)) (b : RoleBits) (d c l d' c' l' : Bool) :
    ({ digitsOff off is { b with sdata := d, sclk := c, slatch := l } with
        sdata := d', sclk := c', slatch := l' } : RoleBits) =
      { digitsOff off is b with sdata := d', sclk := c', slatch := l' } := by
  refine RoleBits.ext_digits (fun i => ?_) rfl rfl rfl
  simp only [RoleBits.get_digit_of_serial, digitsOff_get]

/-- The cycles of at least one digit, with the serial lines driven (R151, R159). -/
theorem performAll_digitCycles {s u : State} (text : FourBytes) (k : Nat) {is : List (Fin 4)} (hne : is ≠ [])
    (hu : SerialDriven u) :
    performAll (digitCycles s text k is) u =
      { u with
        lvl := { digitsOff s.digitOff is u.lvl with sdata := false, sclk := false, slatch := true }
        srShift := s.params.allOff
        srOut := s.params.allOff
        hold := 0#16
        trace := u.trace ++ digitCycles s text k is } := by
  induction is generalizing k u with
  | nil => exact absurd rfl hne
  | cons i is ih =>
    have hcycle := performAll_digitCycle s u i (text.get i) (glyphPattern s.params s.mem k (text.get i)) hu
    rw [digitCycles, performAll_append]
    cases is with
    | nil =>
      rw [hcycle]
      simp [digitCycles, digitsOff]
    | cons j js =>
      rw [ih _ (List.cons_ne_nil j js) (by rw [hcycle]; exact hu), hcycle]
      simp only [digitsOff_serial, List.append_assoc]
      rfl

/-- A RENDER with the serial lines driven, as one equation (R150, R158). -/
theorem exec_render_of_driven {t0 t1 t2 t3 m : Byte} {s : State} (hs : Ready s) (hc : s.configured = true)
    (hv : s.brtValid = true) (hd : SerialDriven s) (hn : 1 ≤ s.ndig.toNat) :
    exec (.render t0 t1 t2 t3 m) s = .next
      { s with
        text := ⟨t0, t1, t2, t3⟩
        dpmask := m
        lvl := { digitsOff s.digitOff (digitsBelow s.ndig.toNat) s.lvl with
          sdata := false, sclk := false, slatch := true }
        srShift := s.params.allOff
        srOut := s.params.allOff
        draws := s.draws + renderDraws s ⟨t0, t1, t2, t3⟩
        trace := s.trace ++ renderExpansion s ⟨t0, t1, t2, t3⟩
        op := 0#4
        upc := 0
        expansion := []
        hold := 0#16 } := by
  have hok : acceptable (.render t0 t1 t2 t3 m) s = true := Bool.and_eq_true_iff.mpr ⟨hc, hv⟩
  rw [exec_render hs hok, completeAtOnce_eq, configuredAfter_render, renderExpansion,
    performAll_digitCycles (u := latchText ⟨t0, t1, t2, t3⟩ m s) _ _ (digitsBelow_ne_nil hn) hd, latchText, hs.1]

/-- Settles O37: the pass as one equation, its expansion written out cycle by cycle. -/
theorem renderPerformsOnePass : Obligations.RenderPerformsOnePass := by
  unfold Obligations.RenderPerformsOnePass
  intro t0 t1 t2 t3 m s hs hc hv hd hn text n
  refine ⟨patternRead s text, s.draws + renderDraws s text, fun i hi => glyphPattern_of_supported hi ..,
    fun i hi hp => glyphPattern_of_blank hi hp .., fun hp => by rw [renderDraws_of_blank hp, Nat.add_zero], ?_⟩
  have hlvl (i : Fin 4) : (digitsOff s.digitOff (digitsBelow n) s.lvl).get (digitRole i) =
      if i.val < n then s.digitOff else s.lvl.get (digitRole i) := by
    simp only [digitsOff_get, mem_digitsBelow]
  have hexec := exec_render_of_driven (t0 := t0) (t1 := t1) (t2 := t2) (t3 := t3) (m := m) hs hc hv hd hn
  rw [renderExpansion_eq_flatMap] at hexec
  rw [hexec]
  congr 2
  refine RoleBits.ext_digits (fun i => (RoleBits.get_digit_of_serial ..).trans ((hlvl i).trans ?_)) rfl rfl rfl
  match i with
  | 0 | 1 | 2 | 3 => rfl

/-- Putting the used digits off changes nothing in the quiescent state (R36). -/
theorem digitsOff_of_quiescent {s : State} (h : Quiescent s) :
    { digitsOff s.digitOff (digitsBelow s.ndig.toNat) s.lvl with sdata := false, sclk := false, slatch := true } =
      s.lvl := by
  obtain ⟨hdig, -, -, -, hdata, hclk, hlatch⟩ := h
  refine RoleBits.ext_digits (fun i => ?_) hdata.symm hclk.symm hlatch.symm
  rw [RoleBits.get_digit_of_serial]
  simp only [digitsOff_get, mem_digitsBelow]
  split
  · next hi => rw [(hdig i).2, decide_eq_true hi, Bool.true_and]
  · rfl

/-- A RENDER from the blank quiescent state, as one equation (R159). -/
theorem exec_render_of_operating {t0 t1 t2 t3 m : Byte} {s : State} (hs : Operating s) (hblank : Blank s)
    (hv : s.brtValid = true) :
    exec (.render t0 t1 t2 t3 m) s = .next
      { s with
        text := ⟨t0, t1, t2, t3⟩
        dpmask := m
        draws := s.draws + renderDraws s ⟨t0, t1, t2, t3⟩
        trace := s.trace ++ renderExpansion s ⟨t0, t1, t2, t3⟩ } := by
  obtain ⟨hready, ⟨hop, hupc, hexp, hhold⟩, hc, -, hcount, hq⟩ := hs
  have hdriven : SerialDriven s := by
    obtain ⟨-, hdata, hclk, hlatch, -⟩ := hq
    exact ⟨hdata, hclk, hlatch⟩
  rw [exec_render_of_driven hready hc hv hdriven hcount.1, digitsOff_of_quiescent hq]
  simp only [hop, hupc, hexp, hhold, hblank.1, hblank.2]

/-- Settles O39: the pass leaves an operating blank state, from which the same equation holds again. -/
theorem renderIsIdempotent : Obligations.RenderIsIdempotent := by
  unfold Obligations.RenderIsIdempotent
  intro t0 t1 t2 t3 m s hs hblank hv text
  refine ⟨renderExpansion s text, s.draws + renderDraws s text, exec_render_of_operating hs hblank hv, fun hfix => ?_⟩
  exact ⟨_, exec_render_of_operating (s := { s with text := text, dpmask := m, draws := _, trace := _ }) hs hblank hv,
    congrArg (s.trace ++ renderExpansion s text ++ ·) (renderExpansion_of_no_draw hfix ..)⟩

/-! ### The frame of RENDER -/

/-- Settles O49: the pass moves pins and the external register, and no line of an unused digit. -/
theorem renderFrame : Obligations.RenderFrame := by
  unfold Obligations.RenderFrame
  intro t0 t1 t2 t3 m s t hs h
  have hframe := performAll_frame (renderExpansion s ⟨t0, t1, t2, t3⟩) (latchText ⟨t0, t1, t2, t3⟩ m s)
  rw [performAll_renderExpansion_oe] at hframe
  rw [exec_render hs (acceptable_of_exec hs h), completeAtOnce_eq, configuredAfter_render] at h
  cases h
  refine ⟨?_, fun i hi => ?_, fun x => ?_⟩
  · rw [hframe, hs.1]
    rfl
  · exact (throughout_lvl_of_not_mem (digitLevel_not_mem_renderExpansion _ hi) _).at_end
  · rw [performAll_mem, latchText_mem]

end Sys2Proof.Machine
end

section
/-! PROOFS. The external register between its edges: which events move SR_SHIFT and which move SR_OUT
(60_exceptions.md R179, R180). -/

namespace Sys2Proof.Machine

/-! ### Rising edges -/

/-- A rising edge is a write of 1 to a driven line that was at 0 (R179, R180). -/
theorem isRisingEdge_iff (s : State) (r : Role) (l : Bool) :
    isRisingEdge s r l = true ↔ l = true ∧ s.oe.get r = true ∧ s.lvl.get r = false := by
  simp only [isRisingEdge, Bool.and_eq_true, Bool.not_eq_true', and_assoc]

/-- The register's test for a rising edge of the line of role `q`, read off the event. -/
theorem risingEdge_of_role_iff (s : State) (q r : Role) (l : Bool) :
    (r = q ∧ isRisingEdge s r l = true) ↔
      (Event.pinLevel r l = .pinLevel q true ∧ s.oe.get q = true ∧ s.lvl.get q = false) := by
  rw [isRisingEdge_iff, Event.pinLevel.injEq, and_assoc]
  constructor
  · rintro ⟨rfl, hedge⟩
    exact ⟨rfl, hedge⟩
  · rintro ⟨rfl, hedge⟩
    exact ⟨rfl, hedge⟩

/-! ### The shift stage (R179) -/

/-- The shift stage takes one bit at a rising clock edge and keeps its own otherwise. -/
theorem registerReaction_srShift (r : Role) (l : Bool) (s : State) :
    (registerReaction r l s).srShift =
      if r = .sclk ∧ isRisingEdge s r l = true then shiftIn s.srShift (sampledBit s) else s.srShift := by
  cases r with
  | sclk => simp only [registerReaction, true_and]; split <;> rfl
  | slatch => simp only [registerReaction, reduceCtorEq, false_and, if_false]; split <;> rfl
  | dig0 | dig1 | dig2 | dig3 | sdata => rfl

theorem perform_srShift (e : Event) (s : State) :
    (perform e s).srShift =
      if e = .pinLevel .sclk true ∧ s.oe.get .sclk = true ∧ s.lvl.get .sclk = false
      then shiftIn s.srShift (sampledBit s) else s.srShift := by
  cases e with
  | pinLevel r l =>
    simp only [← risingEdge_of_role_iff]
    exact registerReaction_srShift r l s
  | pinDir r => rfl
  | wait n => rfl
  | memRead c p => rfl

/-- Settles O34: the shift stage after an event is the byte shifted by one, or the byte it was. -/
theorem shiftStageMovesOnClockEdgesAlone : Obligations.ShiftStageMovesOnClockEdgesAlone := by
  unfold Obligations.ShiftStageMovesOnClockEdgesAlone
  intro e s t
  refine ⟨fun he hoe hlvl => ?_, fun hedge => (perform_srShift e s).trans (if_neg hedge)⟩
  have ht : t.srShift = shiftIn s.srShift (sampledBit s) := (perform_srShift e s).trans (if_pos ⟨he, hoe, hlvl⟩)
  rw [ht]
  refine ⟨fun i hi => ?_, fun hdata => ?_⟩
  · rw [getLsbD_shiftIn _ _ _ (by omega), if_neg i.add_one_ne_zero, Nat.add_sub_cancel]
  · rw [getLsbD_shiftIn _ _ _ (by decide), if_pos rfl, sampledBit, if_pos hdata]

/-! ### The output stage (R180) -/

theorem perform_srOut (e : Event) (s : State) :
    (perform e s).srOut =
      if e = .pinLevel .slatch true ∧ s.oe.get .slatch = true ∧ s.lvl.get .slatch = false
      then s.srShift else s.srOut := by
  cases e with
  | pinLevel r l =>
    simp only [← risingEdge_of_role_iff]
    exact registerReaction_srOut r l s
  | pinDir r => rfl
  | wait n => rfl
  | memRead c p => rfl

/-- Settles O35: the equation for the output stage after an event. -/
theorem outputStageCopiesOnLatchEdgesAlone : Obligations.OutputStageCopiesOnLatchEdgesAlone := by
  unfold Obligations.OutputStageCopiesOnLatchEdgesAlone
  exact perform_srOut

end Sys2Proof.Machine
end

section
/-! PROOFS. RST: the engine goes back to its reset values whatever it does, a refused run keeps its mark until then, an
idle engine with nothing offered waits, and a command that RST comes upon is abandoned between two events or inside a
hold (60_exceptions.md R174, R175; 70_reset_and_hazards.md R200, R201). -/

namespace Sys2Proof.Machine

/-! ### RST now (R200) -/

theorem tick_of_rst_now {s : State} (h : s.rstIn = some 0) : tick s = .next (engineReset s) :=
  if_pos (decide_eq_true h)

theorem step_of_rst_now {s : State} (h : s.rstIn = some 0) : step s = .next (engineReset s) :=
  if_pos (decide_eq_true h)

/-- With OE and LVL at 0 no line shows a level (R24, R33). -/
theorem oe_lvl_line_of_undriven {t : State} (h : Undriven t) (r : Role) :
    t.oe.get r = false ∧ t.lvl.get r = false ∧ line t r = none := by
  obtain ⟨hoe, hlvl⟩ := h
  have hr : t.oe.get r = false := by rw [hoe, RoleBits.get_zero]
  exact ⟨hr, by rw [hlvl, RoleBits.get_zero], if_neg (Bool.eq_false_iff.mp hr)⟩

/-! ### Waiting for RST or for a word (R174, R200) -/

theorem idleTick_of_no_rst {s : State} (h : s.rstIn = none) : idleTick s = s := by
  simp only [idleTick, h]

theorem idleTick_of_rst_later {s : State} {k : Nat} (h : s.rstIn = some (k + 1)) :
    idleTick s = { s with rstIn := some k } := by
  simp only [idleTick, h]

theorem refusedMoment_of_rst_now (r : Refusal) {s : State} (h : s.rstIn = some 0) :
    refusedMoment r s = .on (resetAfterRefusal s) :=
  if_pos (decide_eq_true h)

theorem refusedMoment_of_rst_away (r : Refusal) {s : State} (h : s.rstIn ≠ some 0) :
    refusedMoment r s = .refused r (idleTick s) :=
  ((refusedMoment_cases r s).resolve_left fun hnow => h hnow.1).2

/-- Settles O8: the state after RST is the reset state with the host's inputs, the ROM and the trace kept, and a refused
run is left by RST alone. -/
theorem rstResetsTheEngineAlone : Obligations.RstResetsTheEngineAlone := by
  unfold Obligations.RstResetsTheEngineAlone
  refine ⟨fun s h => ?_, fun s t r => ?_, fun s r => ⟨rfl, fun h => ?_, fun k h => ?_, fun h => ?_⟩⟩
  · exact ⟨engineReset s, step_of_rst_now h, tick_of_rst_now h, rfl, rfl, rfl, rfl, oe_lvl_line_of_undriven ⟨rfl, rfl⟩,
      rfl, rfl, rfl, rfl, rfl, rfl, rfl⟩
  · exact ⟨runNext_on_next, runNext_on_next, runNext_on_refused, runNext_on_refused⟩
  · rw [runTick, runNext_refused, refusedMoment_of_rst_away r (by simp [h]), idleTick_of_no_rst h]
  · rw [runTick, runNext_refused, refusedMoment_of_rst_away r (by simp [h]), idleTick_of_rst_later h]
  · exact ⟨resetAfterRefusal s, refusedMoment_of_rst_now r h, rfl, rfl, rfl, rfl, oe_lvl_line_of_undriven ⟨rfl, rfl⟩,
      rfl, rfl, rfl, rfl, rfl⟩

/-- Settles O9: a tick is an idle moment that no RST comes nearer in, and the step of an idle engine is its tick. -/
theorem idleEngineWaitsForACommand : Obligations.IdleEngineWaitsForACommand := by
  unfold Obligations.IdleEngineWaitsForACommand
  rintro s ⟨hb, hr⟩ ho
  have htick : tick s = .next s := by simp [tick, resetNow, hr, hb, offeredWord, ho, idleTick_of_no_rst hr]
  exact ⟨by rw [step_eq_thenRunToIdle, htick, thenRunToIdle, runToIdle_of_idle s hb], htick⟩

/-! ### The count of ticks to RST and the events -/

/-- The external register's reaction to its lines does not read when RST comes. -/
theorem registerReaction_withRst (r : Role) (l : Bool) (x : Option Nat) (s : State) :
    registerReaction r l { s with rstIn := x } = { registerReaction r l s with rstIn := x } := by
  have hedge (q : Role) : isRisingEdge { s with rstIn := x } q l = isRisingEdge s q l := rfl
  cases r with
  | sclk | slatch => simp only [registerReaction, hedge]; split <;> rfl
  | dig0 | dig1 | dig2 | dig3 | sdata => rfl

/-- No event reads when RST comes. -/
theorem emit_withRst (e : Event) (x : Option Nat) (s : State) :
    emit e { s with rstIn := x } = { emit e s with rstIn := x } := by
  cases e with
  | pinLevel r l => simp only [emit, applyEvent, pinLevel, registerReaction_withRst]
  | pinDir r => rfl
  | wait n => rfl
  | memRead c p => rfl

theorem perform_withRst (e : Event) (x : Option Nat) (s : State) :
    perform e { s with rstIn := x } = { perform e s with rstIn := x } :=
  congrArg endHold (emit_withRst e x s)

theorem performAll_withRst (es : List Event) (x : Option Nat) (s : State) :
    performAll es { s with rstIn := x } = { performAll es s with rstIn := x } := by
  induction es generalizing s with
  | nil => rfl
  | cons e es ih => rw [performAll_cons, performAll_cons, perform_withRst, ih]

/-! ### One event with RST coming (R201) -/

theorem ticksOfEvent_eq_one_or_two (e : Event) : ticksOfEvent e = 1 ∨ ticksOfEvent e = 2 := by
  cases e with
  | wait n => exact ite_eq_or_eq ..
  | pinDir r => exact .inl rfl
  | pinLevel r l => exact .inl rfl
  | memRead c p => exact .inl rfl

theorem busyTick_of_rst_now {s : State} (h : s.rstIn = some 0) : busyTick s = engineReset s := by
  simp only [busyTick, h]

theorem busyTick_of_rst_later {s : State} {k : Nat} (h : s.rstIn = some (k + 1)) :
    busyTick s = sequencerStep { s with rstIn := some k } := by
  simp only [busyTick, h]

theorem runToIdle_of_rst_now {s : State} (hb : s.busy = true) (h : s.rstIn = some 0) :
    runToIdle s = engineReset s := by
  rw [← runToIdle_busyTick hb, busyTick_of_rst_now h, runToIdle_of_idle _ rfl]

section
variable {op : BitVec 4} {es fs : List Event} {n k : Nat} {e : Event} {u : State}

/-- The first tick of an event that holds loads the timer. -/
theorem runToIdle_of_hold_begun (he : es[n]? = some e) (ht : ticksOfEvent e = 2) (hr : u.rstIn = some (k + 1)) :
    (emit e (runningAt op es n { u with rstIn := some k })).hold ≠ 0#16 ∧
    runToIdle (runningAt op es n u) = runToIdle (emit e (runningAt op es n { u with rstIn := some k })) := by
  have hholds : (emit e (runningAt op es n { u with rstIn := some k })).hold ≠ 0#16 := fun h =>
    absurd ((emit_hold_eq_zero_iff e _ rfl).mp h) (by omega)
  refine ⟨hholds, ?_⟩
  rw [← runToIdle_busyTick (runningAt_busy ..), busyTick_of_rst_later (s := runningAt ..) hr]
  exact congrArg runToIdle (sequencerStep_of_event_holds (s := runningAt ..) rfl he hholds)

/-- RST at or after the end of an event finds the event performed. -/
theorem runToIdle_of_event_over (he : es[n]? = some e) (hr : u.rstIn = some (k + ticksOfEvent e)) :
    runToIdle (runningAt op es n u) =
      runToIdle (advance (runningAt op es n (perform e { u with rstIn := some k }))) := by
  rw [← perform_runningAt]
  obtain ht | ht := ticksOfEvent_eq_one_or_two e <;> rw [ht] at hr
  · have hover : (emit e (runningAt op es n { u with rstIn := some k })).hold = 0#16 :=
      (emit_hold_eq_zero_iff e _ rfl).mpr ht
    rw [← runToIdle_busyTick (runningAt_busy ..), busyTick_of_rst_later (s := runningAt ..) hr]
    exact congrArg runToIdle (sequencerStep_of_event_over (s := runningAt ..) rfl he hover)
  · obtain ⟨hholds, hbegun⟩ := runToIdle_of_hold_begun (op := op) he ht hr
    have hnear := emit_withRst e (some k) (runningAt op es n { u with rstIn := some (k + 1) })
    rw [hbegun, ← runToIdle_busyTick (by simp), busyTick_of_rst_later (k := k) (by simp), ← hnear,
      sequencerStep_of_hold]
    · rfl
    · rw [hnear]
      exact hholds

/-- RST inside a hold finds its event begun, and there is no other event it can come inside. -/
theorem runToIdle_of_rst_inside (he : es[n]? = some e) (hr : u.rstIn = some (k + 1)) (hk : k + 1 < ticksOfEvent e) :
    runToIdle (runningAt op es n u) = engineReset (perform e u) := by
  have ht : ticksOfEvent e = 2 := (ticksOfEvent_eq_one_or_two e).resolve_left (by omega)
  obtain rfl : k = 0 := by omega
  obtain ⟨-, hbegun⟩ := runToIdle_of_hold_begun (op := op) he ht hr
  calc runToIdle (runningAt op es n u)
      = engineReset (perform e (runningAt op es n { u with rstIn := some 0 })) := by
        rw [hbegun, runToIdle_of_rst_now (by simp) (by simp)]
        rfl
    _ = engineReset (perform e u) := by
        rw [perform_runningAt, perform_withRst]
        rfl

/-- RST at or after the end of an event that is not the last finds the sequencer at the next one. -/
theorem runToIdle_of_event_over_more (hfs : fs ≠ []) (hr : u.rstIn = some (k + ticksOfEvent e)) :
    runToIdle (runningAt op (es ++ e :: fs) es.length u) =
      runToIdle (runningAt op (es ++ [e] ++ fs) (es ++ [e]).length (perform e { u with rstIn := some k })) := by
  have hmore : ¬ (es ++ e :: fs).length ≤ es.length + 1 := by
    have := List.length_pos_of_ne_nil hfs
    simp only [List.length_append, List.length_cons]
    omega
  rw [runToIdle_of_event_over (by simp) hr, advance_runningAt, if_neg hmore]
  simp

end

/-! ### How many events have begun when RST comes -/

/-- The number of events of a list that have begun `k` ticks after the first may begin. -/
def eventsBegun : Nat → List Event → Nat
  | _, [] => 0
  | k, e :: es => if k = 0 then 0 else eventsBegun (k - ticksOfEvent e) es + 1

@[simp] theorem eventsBegun_zero (es : List Event) : eventsBegun 0 es = 0 := by cases es <;> rfl

theorem eventsBegun_cons {k : Nat} (hk : k ≠ 0) (e : Event) (es : List Event) :
    eventsBegun k (e :: es) = eventsBegun (k - ticksOfEvent e) es + 1 := if_neg hk

/-- The events begun take the ticks that have passed, or more if a hold is in progress. -/
theorem le_ticksOf_take_eventsBegun {k : Nat} {es : List Event} (h : k ≤ ticksOf es) :
    k ≤ ticksOf (es.take (eventsBegun k es)) := by
  induction es generalizing k with
  | nil => exact h
  | cons e es ih =>
    obtain rfl | hk := eq_or_ne k 0
    · exact Nat.zero_le _
    · rw [ticksOf_cons] at h
      have := ih (k := k - ticksOfEvent e) (by omega)
      rw [eventsBegun_cons hk, List.take_succ_cons, ticksOf_cons]
      omega

/-- Fewer events would have been over earlier. -/
theorem ticksOf_take_lt_of_lt_eventsBegun {k j : Nat} {es : List Event} (h : j < eventsBegun k es) :
    ticksOf (es.take j) < k := by
  induction es generalizing k j with
  | nil => exact absurd h (Nat.not_lt_zero j)
  | cons e es ih =>
    have hk : k ≠ 0 := by rintro rfl; simp at h
    rw [eventsBegun_cons hk] at h
    cases j with
    | zero => exact Nat.pos_of_ne_zero hk
    | succ j =>
      have := ih (Nat.lt_of_succ_lt_succ h)
      rw [List.take_succ_cons, ticksOf_cons]
      omega

theorem ticksOfEvent_of_not_wait {e : Event} (h : ∀ n, e ≠ .wait n) : ticksOfEvent e = 1 := by
  cases e with
  | wait n => exact absurd rfl (h n)
  | pinDir r => rfl
  | pinLevel r l => rfl
  | memRead c p => rfl

/-- While no hold comes, one event begins at each tick. -/
theorem eventsBegun_of_no_wait {k : Nat} {es : List Event} (h : k ≤ ticksOf es)
    (hw : ∀ e ∈ es.take k, ∀ n, e ≠ .wait n) : eventsBegun k es = k := by
  induction es generalizing k with
  | nil => exact (Nat.le_zero.mp h).symm
  | cons e es ih =>
    cases k with
    | zero => rfl
    | succ k =>
      rw [List.take_succ_cons, List.forall_mem_cons] at hw
      obtain ⟨he, hes⟩ := hw
      have h1 := ticksOfEvent_of_not_wait he
      rw [ticksOf_cons] at h
      rw [eventsBegun_cons k.succ_ne_zero, h1, Nat.succ_sub_one, ih (by omega) hes]

/-! ### The whole expansion with RST coming (R201) -/

/-- RST before the last event is over resets the engine at the events begun by then. -/
theorem runToIdle_of_rst_during (op : BitVec 4) (es : List Event) {fs : List Event} {k : Nat} {u : State}
    (hr : u.rstIn = some k) (hk : k < ticksOf fs) :
    runToIdle (runningAt op (es ++ fs) es.length u) =
      engineReset (performAll (fs.take (eventsBegun k fs)) u) := by
  induction fs generalizing es k u with
  | nil => exact absurd hk (Nat.not_lt_zero k)
  | cons e fs ih =>
    cases k with
    | zero => exact runToIdle_of_rst_now rfl hr
    | succ k =>
      rw [eventsBegun_cons k.succ_ne_zero, List.take_succ_cons, performAll_cons]
      by_cases hinside : k + 1 < ticksOfEvent e
      · rw [runToIdle_of_rst_inside (by simp) hr hinside, Nat.sub_eq_zero_of_le hinside.le, eventsBegun_zero,
          List.take_zero, performAll_nil]
      · obtain ⟨m, hm⟩ := Nat.exists_eq_add_of_le' (Nat.not_lt.mp hinside)
        have hlater : m < ticksOf fs := by rw [ticksOf_cons] at hk; omega
        have hfs : fs ≠ [] := by rintro rfl; exact absurd hlater (Nat.not_lt_zero m)
        rw [runToIdle_of_event_over_more hfs (hr.trans (congrArg some hm)), ih _ (by simp) hlater, Nat.succ_eq_add_one,
          hm, Nat.add_sub_cancel, perform_withRst, performAll_withRst]
        rfl

/-- RST at or after the end of the last event finds the command complete. -/
theorem runToIdle_of_rst_after (op : BitVec 4) (es : List Event) {fs : List Event} (hfs : fs ≠ []) {k : Nat}
    {u : State} (hr : u.rstIn = some (k + ticksOf fs)) :
    runToIdle (runningAt op (es ++ fs) es.length u) =
      complete (runningAt op [] 0 (performAll fs { u with rstIn := some k })) := by
  induction fs generalizing es u with
  | nil => exact absurd rfl hfs
  | cons e fs ih =>
    rw [ticksOf_cons, Nat.add_comm (ticksOfEvent e), ← Nat.add_assoc] at hr
    rw [performAll_cons]
    cases fs with
    | nil =>
      rw [runToIdle_of_event_over (by simp) hr, advance_runningAt, if_pos (by simp), runToIdle_of_idle _ rfl]
      rfl
    | cons f fs =>
      rw [runToIdle_of_event_over_more (List.cons_ne_nil f fs) hr, ih _ (List.cons_ne_nil f fs) (by simp),
        ← perform_withRst]

/-- Settles O16: RST cuts the run at the events begun, or is still to come when the last of them is over. -/
theorem rstAbandonsTheCommand : Obligations.RstAbandonsTheCommand := by
  unfold Obligations.RstAbandonsTheCommand
  intro i s a k hb ha hr hbusy
  obtain ⟨hidle, -⟩ | ⟨op, es, u, rfl, -, hrst⟩ := accept_idle_or_start hb ha
  · exact absurd (hidle.symm.trans hbusy) Bool.false_ne_true
  rw [exec_of_accepted hb ha, start_expansion, start_eq_runningAt]
  rw [← hrst] at hr
  refine ⟨fun hk => ⟨eventsBegun k es, le_ticksOf_take_eventsBegun hk.le, fun _ => ticksOf_take_lt_of_lt_eventsBegun,
    ?_, eventsBegun_of_no_wait hk.le⟩, fun hne hk => ?_⟩
  · have hreset := runToIdle_of_rst_during op [] hr hk
    rw [performAll_runningAt]
    exact congrArg _ hreset
  · obtain ⟨m, rfl⟩ := Nat.exists_eq_add_of_le' hk
    have hdone := runToIdle_of_rst_after op [] hne hr
    rw [performAll_runningAt, Nat.add_sub_cancel]
    rw [performAll_withRst] at hdone
    exact congrArg _ hdone

end Sys2Proof.Machine
end

section
/-! PROOFS. The hazards of the expansions: what digit 0 shows before the first latch pulse of a RENDER, and how many
events the other commands have (70_reset_and_hazards.md R211, R216). -/

namespace Sys2Proof.Machine

/-! ### The stale byte (R211) -/

/-- Up to the latch pulse of its step 3, digit 0 shows the byte the outputs held at acceptance. -/
theorem Refreshing.srOut_before_first_glyph {s a : State} {text : FourBytes} (h : Refreshing s a text)
    (hn : (0 : Fin 4).val < s.ndig.toNat) {k : Nat} (hk : k ≤ 36) :
    (performAll (a.expansion.take k) a).srOut = a.srOut := by
  have htake := h.performAll_take hn (r := k) (by omega)
  rw [Fin.val_zero, Nat.mul_zero, Nat.zero_add] at htake
  rw [htake]
  exact srOut_before_show s _ 0 _ _ hk

/-- Settles O44: the window of digit 0 is open, and the outputs are as they were. -/
theorem staleByteShowsOnDigitZero : Obligations.StaleByteShowsOnDigitZero := by
  unfold Obligations.StaleByteShowsOnDigitZero
  intro t0 t1 t2 t3 m s a hs ha k h1 h36 u
  have h := refreshing_of_accept hs ha
  obtain ⟨-, -, -, -, hcount, -⟩ := hs
  have hn : (0 : Fin 4).val < s.ndig.toNat := hcount.1
  have hwindow (j : Fin 4) : conducts u j = decide (j = 0) := by
    have hj := h.conducts_window hn h1 (h36.trans (by decide)) j
    rwa [Fin.val_zero, Nat.mul_zero, Nat.zero_add] at hj
  have hstale : u.srOut = s.srOut := by
    rw [h.srOut_before_first_glyph hn h36, eq_of_accept_render ha]
    rfl
  refine ⟨conducting_eq_singleton hwindow, hstale, fun seg => ?_⟩
  rw [lit, hwindow 0, decide_eq_true rfl, Bool.true_and, hstale, bitOf]

/-! ### The counts of events and waits (R216) -/

theorem waitSum_shiftOut (v : Byte) : waitSum (shiftOut v) = 0 := rfl

theorem waitSum_shiftWrite (v : Byte) : waitSum (shiftWrite v) = 0 := rfl

theorem waitSum_digitSetups (off : Bool) (is : List (Fin 4)) : waitSum (is.flatMap (digitSetup off)) = 0 := by
  induction is with
  | nil => rfl
  | cons i is ih => rw [List.flatMap_cons, waitSum_append, ih]; rfl

theorem waitSum_initExpansion (n : Nat) (off : Bool) (allOff : Byte) : waitSum (initExpansion n off allOff) = 0 := by
  rw [initExpansion, waitSum_append, waitSum_append, waitSum_digitSetups, waitSum_shiftWrite]
  rfl

/-- Settles O47: the acceptance fixes the expansion, whose length and waits are known. -/
theorem eventCountsOfCommands : Obligations.EventCountsOfCommands := by
  unfold Obligations.EventCountsOfCommands
  intro s a
  refine ⟨fun pol n d0 d1 d2 d3 data clk latch ha => ?_, fun p ha => ?_, fun b ha => ?_, fun b ha => ?_⟩
  · have hok := acceptable_of_accept ha
    rw [accept_init hok] at ha
    cases ha
    simp only [acceptable, Bool.and_eq_true, decide_eq_true_eq] at hok
    obtain ⟨⟨⟨-, -, hn⟩, -⟩, -⟩ := hok
    exact ⟨initExpansion_length hn _ _, waitSum_initExpansion n _ _⟩
  · cases ha
    exact ⟨rfl, rfl, rfl⟩
  · obtain ⟨hd, hc⟩ := Bool.and_eq_true_iff.mp (acceptable_of_accept ha)
    rw [accept_shout hd hc] at ha
    cases ha
    exact ⟨shiftOut_length b, waitSum_shiftOut b⟩
  · obtain ⟨hd, hc⟩ := Bool.and_eq_true_iff.mp (acceptable_of_accept ha)
    rw [accept_shwr hd hc] at ha
    cases ha
    exact ⟨shiftWrite_length b, waitSum_shiftWrite b⟩

end Sys2Proof.Machine
end

section
/-! PROOFS. The level registers after a completed INIT, and their values under the default LEVELS (00_scope.md R9;
40_configuration.md R101; log entry 5). -/

namespace Sys2Proof.Machine

/-- A completed INIT leaves the level registers as its acceptance wrote them, since no event writes one: the on levels
of its mode, and their inverses (R101). -/
theorem levels_of_exec_init {pol : Polarity} {n : Nat} {d0 d1 d2 d3 data clk latch : Byte} {s t : State}
    {levels : LevelTable} (hs : Ready s) (hlevels : s.params.levels = levels)
    (h : exec (.init pol n d0 d1 d2 d3 data clk latch) s = .next t) :
    t.digitOn = digitOnOf levels pol ∧ t.digitOff = (!digitOnOf levels pol) ∧
      t.segOn = segOnOf levels pol ∧ t.segOff = (!segOnOf levels pol) := by
  subst hlevels
  rw [exec_init hs (acceptable_of_exec hs h), completeAtOnce_eq] at h
  cases h
  simp

/-- Settles O25: each mode's levels are its two entries in LEVELS and their inverses, and the default table has the
entries the statement names. -/
theorem defaultLevelsByMode : Obligations.DefaultLevelsByMode := by
  unfold Obligations.DefaultLevelsByMode
  intro n d0 d1 d2 d3 data clk latch s t hs hdefault
  exact ⟨levels_of_exec_init hs hdefault, levels_of_exec_init hs hdefault⟩

end Sys2Proof.Machine
end
